-- ==== Sys2Proof/Word.lean ====
section
/-! DEFINITION. The word and byte types. R30, R61, R62: registers, pc and values are 64 bits wide.
R16: bit 0 is the least significant bit, as `BitVec` numbers its bits. -/

namespace Sys2Proof

/-- A 64-bit value: the register PMSEVFR_EL1 (R30), X[t] (R61), the pc (R62), an address (R73). -/
abbrev Word := BitVec 64

/-- One byte of the memory that holds `NVMem[0x830]` (R76). -/
abbrev Byte := BitVec 8

end Sys2Proof
end

