-- ==== Sys2Proof/Config.lean ====
section
/-! DEFINITION. The implementation parameters (00_scope.md section 3, R6 to R15, and R76) and the free
values: what the spec calls UNKNOWN or leaves without a value. A free value is an opaque constant:
no proof can see what it is. -/

namespace Sys2Proof

/-- The parameters of one implementation. None has a value in the source (D14), no relation between
them is assumed (D15), and no step changes them. State holds them (DESIGN CHOICE, log 3), so a
statement over all states is a statement for every implementation. -/
structure Config where
  /-- FEAT_SPE, R6: the register is present only when true (R31). -/
  featSPE : Bool
  /-- FEAT_SPEv1p1, R7. -/
  featSPEv1p1 : Bool
  /-- FEAT_SPEv1p2, R8. -/
  featSPEv1p2 : Bool
  /-- FEAT_SVE, R9. -/
  featSVE : Bool
  /-- SPEC_SAMPLING, R10. -/
  specSampling : Bool
  /-- SPEC_ALWAYS_DISCARD, R11. -/
  specAlwaysDiscard : Bool
  /-- EV_IMPL, R12; only its bits inside GENERIC are read. -/
  evImpl : Word
  /-- MULTIBIT, R13: each entry is a mask S and the NUMBER of its filter function; the function
  itself is `Config.multibitFilter` of that number (I5: uninterpreted; log 24). -/
  multibit : List (Word × Nat)
  /-- HAVE_EL3, R14, R25: the value of `HaveEL(EL3)`. -/
  haveEL3 : Bool
  /-- SDD_EL3_PRIO, R15. -/
  sddEl3Prio : Bool
  /-- NVMEM_BIG_ENDIAN, R76. -/
  nvmemBigEndian : Bool
  deriving DecidableEq, Repr

/-- R28 `draw(1)`: the n-th one-bit draw (UNKNOWN read of bit 1, R54). DESIGN CHOICE, safe, log 8. -/
opaque Config.freeBit : Nat → BitVec 1

/-- R28 `draw(64)`: the n-th 64-bit draw (UNKNOWN reset value, R66; the pc past the top of the
address space, R62, log 9). DESIGN CHOICE, safe, log 8. -/
opaque Config.freeWord : Nat → Word

/-- The n-th free choice of the sampling function between the old and the new value (R162).
DESIGN CHOICE, safe, log 16. -/
opaque Config.freeChoice : Nat → Nat

/-- What a byte of memory that nothing has written holds (R157: "whatever the environment's memory
holds"), by address. DESIGN CHOICE, safe, log 11. -/
opaque Config.initialByte : Nat → Byte

/-- Where the cell lies when `NVBase + 0x830` does not fit in 64 bits (R73 gives no result there), by
NVBase. DESIGN CHOICE, safe, log 10. -/
opaque Config.wrappedCell : Word → Word

/-- The IMPLEMENTATION DEFINED filter function number k of a multi-bit event (R13, R36): the register
bits under S, then the sample's event bits under S. DESIGN CHOICE, safe, log 24. -/
opaque Config.multibitFilter : Nat → Word → Word → Bool

end Sys2Proof
end

