-- ==== Sys2Proof/Machine/Mask.lean ====
section
/-! DEFINITION. The bits of PMSEVFR_EL1: the field map of R33, the constant masks of R34, the write
mask of R52. -/

namespace Sys2Proof.Machine

/-- R34: the bits that are RAZ/WI in every implementation (47:32, 23:19, 16, 10:8, 4, 2, 0). -/
def alwaysRaz : Word := 0x0000FFFF00F90715#64

/-- R34: the bits whose field is the generic E[x] (63:48, 31:24, 15:12). -/
def genericMask : Word := 0xFFFF0000FF00F000#64

/-- R34: the bits that are R/W in every implementation (7, 5, 3). -/
def fixedRw : Word := 0x00000000000000A8#64

/-- R34: the conditional bits 18, 17, 11, 6 and 1. -/
def conditionalMask : Word := 0x0000000000060842#64

/-- R50: `SpecActive`. E[1] is an R/W field exactly when it holds (90_conflicts.md C3). -/
def specActive (c : Config) : Bool := c.specSampling && !c.specAlwaysDiscard

/-- R52: `WriteMask`, the set of bits that hold state. -/
def writeMask (c : Config) : Word :=
  0x00000000000000A8#64
    ||| (c.evImpl &&& 0xFFFF0000FF00F000#64)
    ||| (if c.featSPEv1p1 && c.featSVE then 0x0000000000060000#64 else 0#64)
    ||| (if c.featSPEv1p1 then 0x0000000000000800#64 else 0#64)
    ||| (if c.featSPEv1p2 then 0x0000000000000040#64 else 0#64)
    ||| (if specActive c then 0x0000000000000002#64 else 0#64)

/-- R33, row by row: is bit x an R/W field? The table's column "condition for R/W", in the table's
own order; the rules are R35 and R37 to R51. -/
def bitIsRw (c : Config) (x : Nat) : Bool :=
  if 48 ≤ x ∧ x ≤ 63 then c.evImpl.getLsbD x
  else if 32 ≤ x ∧ x ≤ 47 then false
  else if 24 ≤ x ∧ x ≤ 31 then c.evImpl.getLsbD x
  else if 19 ≤ x ∧ x ≤ 23 then false
  else if x = 18 then c.featSPEv1p1 && c.featSVE
  else if x = 17 then c.featSPEv1p1 && c.featSVE
  else if x = 16 then false
  else if 12 ≤ x ∧ x ≤ 15 then c.evImpl.getLsbD x
  else if x = 11 then c.featSPEv1p1
  else if 8 ≤ x ∧ x ≤ 10 then false
  else if x = 7 then true
  else if x = 6 then c.featSPEv1p2
  else if x = 5 then true
  else if x = 4 then false
  else if x = 3 then true
  else if x = 2 then false
  else if x = 1 then specActive c
  else false

/-- R66: the value a reset leaves, `draw(64) AND WriteMask`. With FEAT_SPE false there is no register
(R31) and the model keeps its place at 0 (DESIGN CHOICE, safe, log 22). -/
def resetReg (c : Config) (draw : Word) : Word :=
  if c.featSPE then draw &&& writeMask c else 0#64

end Sys2Proof.Machine
end

