-- ==== Sys2Proof/Machine/Memory.lean ====
section
/-! DEFINITION. Tables keyed by address, and the byte-addressed memory that holds the cell
`NVMem[0x830]` (R70, R76). One canonical form: addresses strictly rising. -/

namespace Sys2Proof.Machine

/-- The value a table lists at address a, if any. -/
def tableFind {α : Type} : List (Nat × α) → Nat → Option α
  | [], _ => none
  | (k, v) :: rest, a => if a = k then some v else tableFind rest a

/-- The table with v at address a, kept in rising order of addresses. -/
def tablePut {α : Type} : List (Nat × α) → Nat → α → List (Nat × α)
  | [], a, v => [(a, v)]
  | (k, w) :: rest, a, v =>
    if a < k then (a, v) :: (k, w) :: rest
    else if a = k then (a, v) :: rest
    else (k, w) :: tablePut rest a v

/-- Every address of the table is at least lo, and each is at least n above the one before it. -/
def spacedFrom {α : Type} (n : Nat) : Nat → List (Nat × α) → Bool
  | _, [] => true
  | lo, (k, _) :: rest => decide (lo ≤ k) && spacedFrom n (k + n) rest

/-- Memory: the bytes something has written, by address. -/
abbrev Memory := List Host.Cell

/-- The canonical form of a memory: addresses strictly rising and inside the 64-bit address space. An
unlisted address holds no value of its own, so no entry can repeat what an unlisted address reads
as (log 11). -/
def Memory.wf (m : Memory) : Bool :=
  spacedFrom 1 0 m && m.all (fun c => decide (c.1 < 2 ^ 64))

/-- The one definition of what a byte of memory reads as: the listed value, and at an unlisted address
the free value of that address (R157; DESIGN CHOICE, safe, log 11). -/
def Memory.byte (m : Memory) (a : Nat) : Byte :=
  (tableFind m a).getD (Config.initialByte a)

/-- Store one byte. -/
def Memory.putByte (m : Memory) (a : Nat) (b : Byte) : Memory := tablePut m a b

/-- R76: the place in a word of the byte at offset i. With NVMEM_BIG_ENDIAN false it is bits
[8i+7:8i]; with true the order of the eight bytes is reversed (DEDUCED, unsafe, log 12). -/
def byteOfWord (bigEndian : Bool) (v : Word) (i : Nat) : Byte :=
  v.extractLsb' (8 * (if bigEndian then 7 - i else i)) 8

/-- The word made of eight bytes, given by offset; the inverse of `byteOfWord`. -/
def wordOfBytes (bigEndian : Bool) (b : Nat → Byte) : Word :=
  if bigEndian then b 0 ++ b 1 ++ b 2 ++ b 3 ++ b 4 ++ b 5 ++ b 6 ++ b 7
  else b 7 ++ b 6 ++ b 5 ++ b 4 ++ b 3 ++ b 2 ++ b 1 ++ b 0

/-- Store the n bytes f 0, f 1, … at a, a + 1, …. -/
def Memory.putBytes (m : Memory) (a : Nat) (f : Nat → Byte) : Nat → Memory
  | 0 => m
  | n + 1 => (m.putBytes a f n).putByte (a + n) (f n)

/-- R74, R76, R78: the 8-byte read `MemRead(a, 8)`, in one piece. -/
def Memory.readWord (m : Memory) (bigEndian : Bool) (a : Nat) : Word :=
  wordOfBytes bigEndian (fun i => m.byte (a + i))

/-- R74, R76, R78: the 8-byte write `MemWrite(a, 8, v)`, in one piece. -/
def Memory.writeWord (m : Memory) (bigEndian : Bool) (a : Nat) (v : Word) : Memory :=
  m.putBytes a (byteOfWord bigEndian v) 8

end Sys2Proof.Machine
end

