-- ==== Sys2Proof/Syntax.lean ====
section
/-! DEFINITION. The two instructions of spec/opcode_table.json, and a program. -/

namespace Sys2Proof

/-- R85: the two instructions that access PMSEVFR_EL1. The operand t is the unsigned value of the
5-bit field Rt, 0 to 31 (R91). -/
inductive Instr where
  /-- `MRS <Xt>, PMSEVFR_EL1` (R104). -/
  | mrs (t : BitVec 5)
  /-- `MSR PMSEVFR_EL1, <Xt>` (R107). -/
  | msr (t : BitVec 5)
  deriving DecidableEq, Repr

/-- The operand t of either instruction (R91). -/
def Instr.operand : Instr → BitVec 5
  | .mrs t => t
  | .msr t => t

/-- R83: the program, a list of instruction words at fixed addresses; no store of the model reaches
it. -/
abbrev Program := List (Nat × BitVec 32)

end Sys2Proof
end

