-- ==== Sys2Proof/Machine/State.lean ====
section
/-! DEFINITION. The state of the machine as plain data, its reset value, and the reasons a step can
stop. -/

namespace Sys2Proof.Machine

/-- R20: the Exception levels, least to most privileged. -/
inductive EL where
  | el0 | el1 | el2 | el3
  deriving DecidableEq, Repr

/-- R58 to R60, R73, R77: everything the rules read from the rest of the machine. The environment
owns these values; no instruction of this spec writes one (R63). No relation between them is
assumed (R59, D15). -/
structure Inputs where
  /-- PSTATE.EL (R20). -/
  el : EL
  /-- `Halted()` (R24). -/
  halted : Bool
  /-- EDSCR.SDD. -/
  sdd : BitVec 1
  /-- SCR_EL3.NS. -/
  ns : BitVec 1
  /-- SCR_EL3.FGTEn. -/
  fgtEn : BitVec 1
  /-- MDCR_EL3.NSPB. -/
  nspb : BitVec 2
  /-- `EL2Enabled()` (R26). -/
  el2Enabled : Bool
  /-- HDFGRTR_EL2.PMSEVFR_EL1. -/
  fgtRead : BitVec 1
  /-- HDFGWTR_EL2.PMSEVFR_EL1. -/
  fgtWrite : BitVec 1
  /-- MDCR_EL2.TPMS. -/
  tpms : BitVec 1
  /-- HCR_EL2.NV2. -/
  nv2 : BitVec 1
  /-- HCR_EL2.NV1. -/
  nv1 : BitVec 1
  /-- HCR_EL2.NV. -/
  nv : BitVec 1
  /-- PMSFCR_EL1.FE, read by the sampling function only (R60). -/
  fe : BitVec 1
  /-- NVBase (R27, R73). -/
  nvBase : Word
  /-- What the environment's MemRead ends in, when it does not succeed: MemFault(info) (R77). The
  info is a number the model never looks at (log 18). -/
  nvReadFault : Option Nat
  /-- The same for MemWrite (R77). -/
  nvWriteFault : Option Nat
  deriving DecidableEq, Repr

/-- R67, R157: what the environment supplies after a reset, and what it may change between two
instructions of this spec. -/
structure Context where
  pc : Word
  x : Vector Word 31
  inp : Inputs
  deriving DecidableEq, Repr

/-- R66, R67: the kinds of reset; all have the same effect (D5). -/
inductive ResetKind where
  | warm | cold | other
  deriving DecidableEq, Repr

/-- One move of one agent (00_scope.md section 7; DESIGN CHOICE, log 15). -/
inductive Move where
  /-- The PE executes the instruction at pc (R100). -/
  | instruction
  /-- The sampling function takes a sample with events ev and asks whether this register lets it be
  recorded (R55). -/
  | sample (ev : Word)
  /-- The environment's event SyncPoint (R162). -/
  | syncPoint
  /-- A reset (R66, R67); the environment supplies the rest of the machine's values (R157). -/
  | reset (kind : ResetKind) (after : Context)
  /-- The rest of the machine changes pc, general registers or inputs (R5, R58, R59). -/
  | environment (after : Context)
  /-- Another agent, or an instruction outside this spec, writes a byte of memory (R80, D22). -/
  | store (a : Word) (b : Byte)
  deriving DecidableEq, Repr

/-- The event filter's answer for one sample: false, the sample is not recorded; true, this register
allows it, and nothing more is claimed (R55, R56). -/
structure Verdict where
  ev : Word
  mayRecord : Bool
  deriving DecidableEq, Repr

/-- The machine. INVENTORY.md lists each field with its rule and reset value. -/
structure State where
  /-- PMSEVFR_EL1 (R30, R53). -/
  reg : Word
  /-- X0 to X30 (R61). Number 31 is the zero register and has no storage. -/
  x : Vector Word 31
  /-- The address of the instruction being executed (R62). -/
  pc : Word
  /-- The memory that holds `NVMem[0x830]` (R27, R76). -/
  mem : Memory
  /-- Older values of reg that the sampling function may still use (R162), newest first. -/
  window : List Word
  /-- The inputs (R58 to R60). -/
  inp : Inputs
  /-- The implementation parameters (R6 to R15, R76). -/
  cfg : Config
  /-- The program (R83). -/
  program : Program
  /-- The model's own: which agent moves next; empty means the PE does (log 15). -/
  schedule : List Move
  /-- The model's own: the event filter's verdicts, oldest first (R55; log 17). -/
  samples : List Verdict
  /-- The model's own: the number of the next draw (R28; log 8). -/
  draws : Nat
  deriving DecidableEq, Repr

/-- What ends a run with a fault. -/
inductive Fault where
  /-- R22, R131, D3: the outcome `Undefined`. Raised by MRS and MSR (R105, R108). Safe: the model stops
  where a machine with an environment goes on (log 1). -/
  | undefined
  /-- R23, R133, D4: the outcome `Trap(target, 0x18)`, carrying what R134 asks a model to carry: the
  target, the class, whether the access was a read, and t. Raised by MRS and MSR at EL1 and EL2
  (R135, R136). Safe: the model stops where a machine with an environment goes on (log 2). -/
  | systemAccessTrap (target : EL) (ec : BitVec 6) (isRead : Bool) (t : BitVec 5)
  /-- R77, R103, R130: the outcome `MemFault(info)` of the environment's MemRead or MemWrite, passed
  through. Raised by MRS and MSR on the memory path. Safe (log 18). -/
  | memFault (info : Nat)
  deriving DecidableEq, Repr

/-- Why a step is given no meaning. -/
inductive Refusal where
  /-- An instruction whose arm has no meaning yet. No arm of this model answers it. Safe. -/
  | notModelled (mnemonic : String)
  /-- R97, D24: the word at pc is no instruction of this spec. Raised by the fetch. Safe. -/
  | notInThisSpec (word : BitVec 32)
  /-- R83: the program has no word at pc. Raised by the fetch. Safe (log 13). -/
  | noInstruction (pc : Word)
  /-- R77, D10: `NVBase[2:0]` is not 0 and the access goes to memory. Raised by MRS and MSR on the memory
  path. Safe (log 19). -/
  | nvBaseMisaligned
  /-- R83, D17: the bytes of a memory access share a byte with the program. Raised by MRS and MSR on
  the memory path and by a store move. Safe (log 14). -/
  | overlapsProgram
  deriving DecidableEq, Repr

/-- The parameters of State.reset: FEAT_SPE true, since the hardware is this register; HAVE_EL3 true,
since reset is at EL3; else the spec's configuration MIN (95_test_vectors.md) and the defaults of
D9 and D14. DESIGN CHOICE, unsafe, log 3; no statement rests on it. -/
def resetConfig : Config :=
  { featSPE := true, featSPEv1p1 := false, featSPEv1p2 := false, featSVE := false,
    specSampling := false, specAlwaysDiscard := false, evImpl := 0#64, multibit := [],
    haveEL3 := true, sddEl3Prio := false, nvmemBigEndian := false }

/-- The inputs of State.reset (R157 gives no value). EL3 and not halted: PRESUMED, the family's, log 5.
The zeros: DESIGN CHOICE, log 4. Unsafe; no statement rests on them. -/
def resetInputs : Inputs :=
  { el := .el3, halted := false, sdd := 0#1, ns := 0#1, fgtEn := 0#1, nspb := 0#2,
    el2Enabled := false, fgtRead := 0#1, fgtWrite := 0#1, tpms := 0#1, nv2 := 0#1, nv1 := 0#1,
    nv := 0#1, fe := 0#1, nvBase := 0#64, nvReadFault := none, nvWriteFault := none }

/-- The machine right after reset. PMSEVFR_EL1 is UNKNOWN: a free value under WriteMask (R66, R155,
log 7). General registers and pc: 0, DESIGN CHOICE, unsafe, log 6. Nothing is listed in memory
(R157, log 11) and no program is loaded (R83, log 13). -/
def State.reset : State :=
  { reg := resetReg resetConfig (Config.freeWord 0), x := Vector.replicate 31 0#64, pc := 0#64,
    mem := [], window := [], inp := resetInputs, cfg := resetConfig, program := [],
    schedule := [], samples := [], draws := 1 }

end Sys2Proof.Machine
end

