-- ==== Sys2Proof/Machine/Flags.lean ====
section
/-! DEFINITION. The spec has no flags (R63: PSTATE.EL is the only PSTATE field read, and none is
written). What is computed from status bits is this: the conditions the access rules test, named as
in R110. -/

namespace Sys2Proof.Machine

/-- R110 `OwnerMismatch`: the EL3 ownership check fails (R146). -/
def ownerMismatch (c : Config) (i : Inputs) : Bool :=
  c.haveEL3 && ((i.ns == 0#1 && i.nspb != 0b01#2) || (i.ns == 1#1 && i.nspb != 0b11#2))

/-- R110 `DebugSDD`. -/
def debugSDD (i : Inputs) : Bool := i.halted && i.sdd == 1#1

/-- R110 `FGTrap(w)`: the fine-grained trap, w true for MSR. -/
def fgTrap (c : Config) (i : Inputs) (w : Bool) : Bool :=
  i.el2Enabled && (!c.haveEL3 || i.fgtEn == 1#1) && (if w then i.fgtWrite else i.fgtRead) == 1#1

/-- R110 `TPMSTrap`. -/
def tpmsTrap (i : Inputs) : Bool := i.el2Enabled && i.tpms == 1#1

/-- R110 `NVRedirect`. -/
def nvRedirect (i : Inputs) : Bool := i.el2Enabled && i.nv2 == 1#1 && i.nv == 1#1

/-- R17, R18: `HCR_EL2.<NV2,NV1,NV> == '1x1'`, as written: the three bits joined, NV2 most
significant, and compared with a pattern whose middle character matches either bit. -/
def nvPatternIs1x1 (i : Inputs) : Bool := (i.nv2 ++ i.nv1 ++ i.nv) &&& 0b101#3 == 0b101#3

end Sys2Proof.Machine
end

