-- ==== Sys2Proof/Machine/Access.lean ====
section
/-! DEFINITION. The access decision: the two pseudocode blocks of R104 and R107 arm by arm, after the
presence check of R101, and the compact form `AccessCheck` of R110. -/

namespace Sys2Proof.Machine

/-- R110: what the access check answers. -/
inductive Access where
  /-- The statement `UNDEFINED;` (R22). -/
  | undefined
  /-- The call `AArch64.SystemAccessTrap(target, ec)` (R23). -/
  | trap (target : EL) (ec : BitVec 6)
  /-- The access is made to `NVMem[0x830]` (R72). -/
  | memory
  /-- The access is made to PMSEVFR_EL1. -/
  | register
  deriving DecidableEq, Repr

/-- R104, the pseudocode of MRS. -/
def mrsPseudocode (c : Config) (i : Inputs) : Access :=
  match i.el with
  | .el0 => .undefined
  | .el1 =>
    if i.halted && c.haveEL3 && i.sdd == 1#1 && c.sddEl3Prio && i.ns == 0#1 && i.nspb != 0b01#2 then
      .undefined
    else if i.halted && c.haveEL3 && i.sdd == 1#1 && c.sddEl3Prio && i.ns == 1#1 && i.nspb != 0b11#2 then
      .undefined
    else if i.el2Enabled && (!c.haveEL3 || i.fgtEn == 1#1) && i.fgtRead == 1#1 then
      .trap .el2 0x18#6
    else if i.el2Enabled && i.tpms == 1#1 then
      .trap .el2 0x18#6
    else if c.haveEL3 && i.ns == 0#1 && i.nspb != 0b01#2 then
      if i.halted && i.sdd == 1#1 then .undefined else .trap .el3 0x18#6
    else if c.haveEL3 && i.ns == 1#1 && i.nspb != 0b11#2 then
      if i.halted && i.sdd == 1#1 then .undefined else .trap .el3 0x18#6
    else if i.el2Enabled && nvPatternIs1x1 i then
      .memory
    else
      .register
  | .el2 =>
    if i.halted && c.haveEL3 && i.sdd == 1#1 && c.sddEl3Prio && i.ns == 0#1 && i.nspb != 0b01#2 then
      .undefined
    else if i.halted && c.haveEL3 && i.sdd == 1#1 && c.sddEl3Prio && i.ns == 1#1 && i.nspb != 0b11#2 then
      .undefined
    else if c.haveEL3 && i.ns == 0#1 && i.nspb != 0b01#2 then
      if i.halted && i.sdd == 1#1 then .undefined else .trap .el3 0x18#6
    else if c.haveEL3 && i.ns == 1#1 && i.nspb != 0b11#2 then
      if i.halted && i.sdd == 1#1 then .undefined else .trap .el3 0x18#6
    else
      .register
  | .el3 => .register

/-- R107, the pseudocode of MSR. -/
def msrPseudocode (c : Config) (i : Inputs) : Access :=
  match i.el with
  | .el0 => .undefined
  | .el1 =>
    if i.halted && c.haveEL3 && i.sdd == 1#1 && c.sddEl3Prio && i.ns == 0#1 && i.nspb != 0b01#2 then
      .undefined
    else if i.halted && c.haveEL3 && i.sdd == 1#1 && c.sddEl3Prio && i.ns == 1#1 && i.nspb != 0b11#2 then
      .undefined
    else if i.el2Enabled && (!c.haveEL3 || i.fgtEn == 1#1) && i.fgtWrite == 1#1 then
      .trap .el2 0x18#6
    else if i.el2Enabled && i.tpms == 1#1 then
      .trap .el2 0x18#6
    else if c.haveEL3 && i.ns == 0#1 && i.nspb != 0b01#2 then
      if i.halted && i.sdd == 1#1 then .undefined else .trap .el3 0x18#6
    else if c.haveEL3 && i.ns == 1#1 && i.nspb != 0b11#2 then
      if i.halted && i.sdd == 1#1 then .undefined else .trap .el3 0x18#6
    else if i.el2Enabled && nvPatternIs1x1 i then
      .memory
    else
      .register
  | .el2 =>
    if i.halted && c.haveEL3 && i.sdd == 1#1 && c.sddEl3Prio && i.ns == 0#1 && i.nspb != 0b01#2 then
      .undefined
    else if i.halted && c.haveEL3 && i.sdd == 1#1 && c.sddEl3Prio && i.ns == 1#1 && i.nspb != 0b11#2 then
      .undefined
    else if c.haveEL3 && i.ns == 0#1 && i.nspb != 0b01#2 then
      if i.halted && i.sdd == 1#1 then .undefined else .trap .el3 0x18#6
    else if c.haveEL3 && i.ns == 1#1 && i.nspb != 0b11#2 then
      if i.halted && i.sdd == 1#1 then .undefined else .trap .el3 0x18#6
    else
      .register
  | .el3 => .register

/-- R101, R31: the presence check, applied before the pseudocode at every Exception level
(90_conflicts.md C5). -/
def ifPresent (c : Config) (a : Access) : Access := if !c.featSPE then .undefined else a

/-- R100 to R102: the decision of MRS. -/
def mrsAccess (c : Config) (i : Inputs) : Access := ifPresent c (mrsPseudocode c i)

/-- R100 to R102: the decision of MSR. -/
def msrAccess (c : Config) (i : Inputs) : Access := ifPresent c (msrPseudocode c i)

/-- R110 `AccessCheck(w)`, the compact form, w true for MSR. The meanings follow the pseudocode; that
the two agree is an obligation. -/
def accessCheck (c : Config) (i : Inputs) (w : Bool) : Access :=
  if !c.featSPE then .undefined
  else if i.el = .el0 then .undefined
  else if i.el = .el3 then .register
  else if i.el == .el1 && (debugSDD i && c.sddEl3Prio && ownerMismatch c i) then .undefined
  else if i.el == .el1 && (fgTrap c i w || tpmsTrap i) then .trap .el2 0x18#6
  else if ownerMismatch c i then
    if debugSDD i then .undefined else .trap .el3 0x18#6
  else if i.el == .el1 && nvRedirect i then .memory
  else .register

end Sys2Proof.Machine
end

