-- ==== Sys2Proof/Decode.lean ====
section
/-! DEFINITION. Decoding, encoding and the assembler forms (30_encoding.md). The five field values are
the source's (R86); their places in the word, the fixed bits and the length of 32 bits are the
layout of R88 (general knowledge, G10; PRESUMED, log 21). Instruction words are numbers, not byte
sequences (R76). -/

namespace Sys2Proof

/-- Why a word does not decode. -/
inductive DecodeReject where
  /-- R97, D24: "not in this spec". The word is none of the two patterns of R89 and R90; it is not
  thereby UNDEFINED. -/
  | notInThisSpec (word : BitVec 32)
  deriving DecidableEq, Repr

/-! The fields of R88. -/

/-- Bits 31:22. -/
def wordFixed (w : BitVec 32) : BitVec 10 := w.extractLsb' 22 10
/-- Bit 21, L: 1 selects MRS, 0 selects MSR. -/
def wordL (w : BitVec 32) : BitVec 1 := w.extractLsb' 21 1
/-- Bits 20:19. -/
def wordOp0 (w : BitVec 32) : BitVec 2 := w.extractLsb' 19 2
/-- Bits 18:16. -/
def wordOp1 (w : BitVec 32) : BitVec 3 := w.extractLsb' 16 3
/-- Bits 15:12. -/
def wordCRn (w : BitVec 32) : BitVec 4 := w.extractLsb' 12 4
/-- Bits 11:8. -/
def wordCRm (w : BitVec 32) : BitVec 4 := w.extractLsb' 8 4
/-- Bits 7:5. -/
def wordOp2 (w : BitVec 32) : BitVec 3 := w.extractLsb' 5 3
/-- Bits 4:0. -/
def wordRt (w : BitVec 32) : BitVec 5 := w.extractLsb' 0 5

/-- R86, R88: the word is a system-register move that names PMSEVFR_EL1. -/
def namesPmsevfr (w : BitVec 32) : Bool :=
  wordFixed w == 0b1101010100#10 && wordOp0 w == 0b11#2 && wordOp1 w == 0b000#3
    && wordCRn w == 0b1001#4 && wordCRm w == 0b1001#4 && wordOp2 w == 0b101#3

/-- R97: recognise exactly the two patterns of R89 and R90, refuse every other word by name. -/
def decode (w : BitVec 32) : Except DecodeReject Instr :=
  if namesPmsevfr w then
    if wordL w == 1#1 then .ok (.mrs (wordRt w)) else .ok (.msr (wordRt w))
  else .error (.notInThisSpec w)

/-- The word with PMSEVFR_EL1's five field values (R86) in the layout of R88. -/
def sysregMoveWord (l : BitVec 1) (t : BitVec 5) : BitVec 32 :=
  0b1101010100#10 ++ l ++ 0b11#2 ++ 0b000#3 ++ 0b1001#4 ++ 0b1001#4 ++ 0b101#3 ++ t

/-- R89, R90: the word of an instruction. -/
def encode : Instr → BitVec 32
  | .mrs t => sysregMoveWord 1#1 t
  | .msr t => sysregMoveWord 0#1 t

/-- The instruction the decoder reads from the bits w of an opcode-table row of nbits bits. The spec
has one length, 32 bits (R88, R95); bits above nbits are 0. -/
def decodeTableWord (nbits w : Nat) : Option Instr :=
  if nbits ≤ 32 ∧ w < 2 ^ nbits then
    match decode (BitVec.ofNat 32 w) with
    | .ok i => some i
    | .error _ => none
  else none

/-! The assembler forms of R92 to R94 (log 26). -/

/-- The assembler's name of register number t: X0 to X30, and XZR for 31 (R94, general knowledge). -/
def asmReg (t : BitVec 5) : String :=
  if t = 31#5 then "XZR" else "X" ++ toString t.toNat

/-- R92, R93: the assembler text of an instruction, with the system register written as `name`. -/
def asmTextWith (name : String) : Instr → String
  | .mrs t => "MRS " ++ asmReg t ++ ", " ++ name
  | .msr t => "MSR " ++ name ++ ", " ++ asmReg t

/-- R92, R93: the assembler text of an instruction. -/
def asmText (i : Instr) : String := asmTextWith "PMSEVFR_EL1" i

/-- R94 (general knowledge): the generic name of the register, built from the field values of R86. -/
def genericName : String := "S3_0_C9_C9_5"

/-- Every instruction of this spec. -/
def allInstrs : List Instr :=
  (List.range 32).map (fun n => .mrs (BitVec.ofNat 5 n))
    ++ (List.range 32).map (fun n => .msr (BitVec.ofNat 5 n))

/-- A text with every letter in upper case. -/
def upperCase (text : String) : List Char := text.toList.map Char.toUpper

/-- R92 to R94: the instruction an assembler text names, either name of the register and letters of
either case being accepted. -/
def assemble (text : String) : Option Instr :=
  allInstrs.find? (fun i =>
    upperCase text == upperCase (asmText i) || upperCase text == upperCase (asmTextWith genericName i))

end Sys2Proof
end

