-- ==== Sys2Proof/Machine/Operands.lean ====
section
/-! DEFINITION. The one operand form of the spec, `<Xt>` (R91): reading and writing X[t] (R21, R61). -/

namespace Sys2Proof.Machine

/-- R21, R61: `x[t]`. Number 31 is the zero register and reads 0 (PRESUMED by the spec, G6, D20;
log 20). -/
def State.readX (s : State) (t : BitVec 5) : Word :=
  if t = 31#5 then 0#64 else (s.x[t.toNat]?).getD 0#64

/-- R21, R61: `x[t] <- v`. Number 31 discards v. -/
def State.writeX (s : State) (t : BitVec 5) (v : Word) : State :=
  if t = 31#5 then s else { s with x := s.x.setIfInBounds t.toNat v }

end Sys2Proof.Machine
end

