-- ==== Sys2Proof/Machine/Ops.lean ====
section
/-! DEFINITION. The shared operations over registers and memory: draws, the pc, direct read and write
of PMSEVFR_EL1, the redirected memory access, what ends an instruction without completing it, and
the fetch. -/

namespace Sys2Proof.Machine

/-- What a step of this machine ends in. -/
abbrev Result := Host.Outcome State Fault Refusal

/-- R28: the draw is used up; the next one is another. -/
def State.nextDraw (s : State) : State := { s with draws := s.draws + 1 }

/-- R62: `pc <- pc + 4`. The spec gives no result where the sum does not fit in 64 bits: there the new
pc is a free value (DESIGN CHOICE, safe, log 9). -/
def State.advancePc (s : State) : State :=
  if s.pc.toNat + 4 < 2 ^ 64 then { s with pc := s.pc + 4#64 }
  else { s.nextDraw with pc := Config.freeWord s.draws }

/-- R103: the instruction has completed. -/
def complete (s : State) : Result := .next s.advancePc

/-- R22, R131, D3: the one operation that takes the exception `Undefined`. It ends the step and changes
nothing (R141); the spec gives no mechanism beyond it (log 1). -/
def raiseUndefined : Result := .fault .undefined

/-- R23, R133, D4: the one operation that takes `Trap(target, ec)`. It ends the step, carries the
direction and t (R134), and changes nothing (R141); trap entry and return are the environment's
(R142, R143; log 2). -/
def raiseSystemAccessTrap (target : EL) (ec : BitVec 6) (isRead : Bool) (t : BitVec 5) : Result :=
  .fault (.systemAccessTrap target ec isRead t)

/-- R134 (general knowledge, G13; PRESUMED, log 33): the low 25 bits of the syndrome of a trap:
Op0 [21:20], Op2 [19:17], Op1 [16:14], CRn [13:10], Rt [9:5], CRm [4:1], Direction [0]. -/
def trapSyndromeLow (isRead : Bool) (t : BitVec 5) : BitVec 25 :=
  0b000#3 ++ 0b11#2 ++ 0b101#3 ++ 0b000#3 ++ 0b1001#4 ++ t ++ 0b1001#4
    ++ (if isRead then 1#1 else 0#1)

/-- R134 (general knowledge, G13; PRESUMED, log 33): the full syndrome: the class at [31:26], 1 at [25]. No
step records it; it is what the environment would record. -/
def trapSyndrome (ec : BitVec 6) (isRead : Bool) (t : BitVec 5) : BitVec 32 :=
  ec ++ 1#1 ++ trapSyndromeLow isRead t

/-- R54 `RegRead(reg)`: the value of a direct read when the draw of bit 1 is b. -/
def regRead (c : Config) (reg : Word) (b : BitVec 1) : Word :=
  reg ||| (if specActive c then 0#64 else b.setWidth 64 <<< 1)

/-- R54: the value a direct read yields now. -/
def State.directReadValue (s : State) : Word := regRead s.cfg s.reg (Config.freeBit s.draws)

/-- R54, R50: a direct read changes nothing; a read of the UNKNOWN bit 1 uses up a draw, so that each
read has a fresh one (D2). -/
def State.afterDirectRead (s : State) : State := if specActive s.cfg then s else s.nextDraw

/-- R53: the direct write `reg <- v AND WriteMask`. The value written over stays visible to sampling
until SyncPoint (R162; log 16). -/
def State.directWrite (s : State) (v : Word) : State :=
  { s with reg := v &&& writeMask s.cfg, window := s.reg :: s.window }

/-- R73: the address of `NVMem[0x830]`, NVBase + 0x830. The spec gives no result where the sum does not
fit in 64 bits: there the cell lies at a free address, 8-byte aligned as R77 says and the same at
every access with that NVBase (DESIGN CHOICE, safe, log 10). -/
def nvCellAddr (nvBase : Word) : Nat :=
  if nvBase.toNat + 0x830 < 2 ^ 64 then nvBase.toNat + 0x830
  else (Config.wrappedCell nvBase &&& ~~~7#64).toNat

/-- The bytes [a, a + n) share a byte with an instruction word of the program (D17). -/
def overlapsProgram (p : Program) (a n : Nat) : Bool :=
  p.any (fun e => decide (e.1 < a + n) && decide (a < e.1 + 4))

/-- The address of this state's cell. -/
def State.cell (s : State) : Nat := nvCellAddr s.inp.nvBase

/-- R77, D8, D10, D17: what stands before a memory access. NVBase not 8-byte aligned, or the cell over
the program: refused. Else the environment's verdict: MemFault(info), or the access is made
(the order is a DESIGN CHOICE, safe, log 19). -/
def memoryAccess (s : State) (verdict : Option Nat) (done : Result) : Result :=
  if s.inp.nvBase.extractLsb' 0 3 ≠ 0#3 then .refused .nvBaseMisaligned
  else if overlapsProgram s.program s.cell 8 then .refused .overlapsProgram
  else
    match verdict with
    | some info => .fault (.memFault info)
    | none => done

/-- R103: `MemRead(NVBase + 0x830, 8)`, unmasked (R75). -/
def State.readCell (s : State) : Word := s.mem.readWord s.cfg.nvmemBigEndian s.cell

/-- R103: `MemWrite(NVBase + 0x830, 8, v)`, unmasked (R75). -/
def State.writeCell (s : State) (v : Word) : State :=
  { s with mem := s.mem.writeWord s.cfg.nvmemBigEndian s.cell v }

/-- R83, R97: the instruction at pc, or the reason there is none. -/
def fetch (s : State) : Except Refusal Instr :=
  match tableFind s.program s.pc.toNat with
  | none => .error (.noInstruction s.pc)
  | some w =>
    match decode w with
    | .ok i => .ok i
    | .error (.notInThisSpec w') => .error (.notInThisSpec w')

end Sys2Proof.Machine
end

