-- ==== Sys2Proof/Machine/SysReg.lean ====
section
/-! DEFINITION. The meanings of the two instructions (40_sysreg_access.md). -/

namespace Sys2Proof.Machine

/-- R104: `MRS <Xt>, PMSEVFR_EL1`. The decision, then `return PMSEVFR_EL1` or `return NVMem[0x830]`
into X[t] (R21, R103). -/
def execMrs (t : BitVec 5) (s : State) : Result :=
  match mrsAccess s.cfg s.inp with
  | .undefined => raiseUndefined
  | .trap target ec => raiseSystemAccessTrap target ec true t
  | .memory => memoryAccess s s.inp.nvReadFault (complete (s.writeX t s.readCell))
  | .register => complete (s.afterDirectRead.writeX t s.directReadValue)

/-- R107: `MSR PMSEVFR_EL1, <Xt>`. The decision, then `PMSEVFR_EL1 = X[t]` or `NVMem[0x830] = X[t]`
(R103). -/
def execMsr (t : BitVec 5) (s : State) : Result :=
  match msrAccess s.cfg s.inp with
  | .undefined => raiseUndefined
  | .trap target ec => raiseSystemAccessTrap target ec false t
  | .memory => memoryAccess s s.inp.nvWriteFault (complete (s.writeCell (s.readX t)))
  | .register => complete (s.directWrite (s.readX t))

end Sys2Proof.Machine
end

