-- ==== Sys2Proof/Machine/Sampling.lean ====
section
/-! DEFINITION. The sampling function's use of the register: the event filter (R55 to R57) and the
window before SyncPoint (R162). -/

namespace Sys2Proof.Machine

/-- R55 `MB`: the OR of all masks of MULTIBIT. -/
def multibitMask (c : Config) : Word := c.multibit.foldr (fun e m => e.1 ||| m) 0#64

/-- R57 `Eeff(reg)`. -/
def effectiveFilter (c : Config) (reg : Word) : Word := reg &&& writeMask c

/-- R55 `EventFilterPass(reg, FE, ev)`. -/
def eventFilterPass (c : Config) (reg : Word) (fe : BitVec 1) (ev : Word) : Bool :=
  if fe == 0#1 then true
  else (effectiveFilter c reg &&& ~~~multibitMask c &&& ~~~ev == 0#64)
    && c.multibit.all (fun e =>
        Config.multibitFilter e.2 (effectiveFilter c reg &&& e.1) (ev &&& e.1))

/-- R162: the value of the register that a sample taken now is filtered with: reg itself when no window
is open, else a free choice among reg and the older values (log 16). -/
def State.sampledReg (s : State) : Word :=
  match s.window with
  | [] => s.reg
  | _ :: _ =>
    ((s.reg :: s.window)[Config.freeChoice s.draws % (s.window.length + 1)]?).getD s.reg

/-- R162: the choice is free for each sample. -/
def State.afterSampleChoice (s : State) : State :=
  match s.window with
  | [] => s
  | _ :: _ => s.nextDraw

/-- R55, R162: a sample is taken and this register's verdict recorded. Where FEAT_SPE is false there is
no register (R31) and nothing to filter with (DEDUCED, safe, log 17). -/
def State.takeSample (s : State) (ev : Word) : State :=
  let verdict : Verdict :=
    { ev := ev,
      mayRecord := if s.cfg.featSPE then eventFilterPass s.cfg s.sampledReg s.inp.fe ev else true }
  { s.afterSampleChoice with samples := s.samples ++ [verdict] }

/-- R162: SyncPoint; from here sampling uses the new value. -/
def State.syncPoint (s : State) : State := { s with window := [] }

end Sys2Proof.Machine
end

