-- ==== Sys2Proof/Machine/Environment.lean ====
section
/-! DEFINITION. The moves of the environment and of reset (00_scope.md section 7; log 15). -/

namespace Sys2Proof.Machine

/-- The environment supplies pc, general registers and inputs (R5, R58, R67). -/
def State.withContext (s : State) (after : Context) : State :=
  { s with pc := after.pc, x := after.x, inp := after.inp }

/-- R66, R67, R155, R156: a reset of any kind: the register takes `draw(64) AND WriteMask`, kept until
it is written (R163), so no older value stays visible. R157: memory is untouched, and the
environment supplies pc, general registers and inputs, with no assumed value (log 25). -/
def State.doReset (s : State) (_ : ResetKind) (after : Context) : State :=
  { (s.withContext after).nextDraw with
    reg := resetReg s.cfg (Config.freeWord s.draws), window := [] }

/-- R80, D22: another agent writes a byte of memory. No store reaches the program (R83, D17). -/
def State.foreignStore (s : State) (a : Word) (b : Byte) : Result :=
  if overlapsProgram s.program a.toNat 1 then .refused .overlapsProgram
  else .next { s with mem := s.mem.putByte a.toNat b }

end Sys2Proof.Machine
end

