-- ==== Sys2Proof/Machine/Agents.lean ====
section
/-! DEFINITION. What each agent's move does to the machine (log 15), and how an instruction is placed
where the fetch finds it. -/

namespace Sys2Proof.Machine

/-- R100: the PE executes the instruction at pc. -/
def runPE (s : State) : Result :=
  match fetch s with
  | .ok i => exec i s
  | .error r => .refused r

/-- One move of one agent. -/
def runMove (m : Move) (s : State) : Result :=
  match m with
  | .instruction => runPE s
  | .sample ev => .next (s.takeSample ev)
  | .syncPoint => .next s.syncPoint
  | .reset kind after => .next (s.doReset kind after)
  | .environment after => .next (s.withContext after)
  | .store a b => s.foreignStore a b

/-- The schedule's first move, taken off it; with an empty schedule the PE moves. -/
def runNext (s : State) : Result :=
  match s.schedule with
  | [] => runPE s
  | m :: rest => runMove m { s with schedule := rest }

/-- s with the instruction word w at pc, and the PE to move. -/
def State.withWordAtPc (s : State) (w : BitVec 32) : State :=
  { s with program := tablePut s.program s.pc.toNat w, schedule := [] }

end Sys2Proof.Machine
end

