-- ==== Sys2Proof/Machine/Step.lean ====
section
/-! DEFINITION. One step of the machine: one move of one agent. -/

namespace Sys2Proof.Machine

/-- One step (R100, and log 15 for the other agents). -/
def step (s : State) : Host.Outcome State Fault Refusal := runNext s

/-- s with the instruction of an opcode-table row placed where the next step fetches it: in the program
at pc (R83), the PE to move. Instructions are 32 bits long (R88), so nbits says nothing more. -/
def State.withFetchWord (s : State) (_nbits w : Nat) : State := s.withWordAtPc (BitVec.ofNat 32 w)

end Sys2Proof.Machine
end

