-- ==== Sys2Proof/Safety.lean ====
section
/-! DEFINITION. The terms statements use: the invariant of the machine, what software must set up
(R158), and what changes a state. -/

namespace Sys2Proof.Machine

/-- R53: a value the register can hold: no bit outside WriteMask, and 0 where there is no register
(R31, log 22). -/
def holdable (c : Config) (v : Word) : Prop :=
  v &&& ~~~writeMask c = 0#64 ∧ (c.featSPE = false → v = 0#64)

/-- The invariant: the register and every older value sampling may still use are values the register
can hold (R53, R57), where there is no register there is no older value (R31), and memory is in its
canonical form. -/
def State.Inv (s : State) : Prop :=
  holdable s.cfg s.reg ∧ (∀ v ∈ s.window, holdable s.cfg v)
    ∧ (s.cfg.featSPE = false → s.window = []) ∧ s.mem.wf = true

/-- R158(b): the controls of the more privileged levels let an access reach the register. -/
def controlsPermit (c : Config) (i : Inputs) (w : Bool) : Prop :=
  (c.haveEL3 = true → i.ns = 0#1 ∧ i.nspb = 0b01#2 ∨ i.ns = 1#1 ∧ i.nspb = 0b11#2)
    ∧ (i.el = .el1 → i.el2Enabled = true →
        i.tpms = 0#1
          ∧ ((c.haveEL3 = false ∨ i.fgtEn = 1#1) → (if w then i.fgtWrite else i.fgtRead) = 0#1))

/-- The address lies outside the eight bytes of the cell. -/
def State.outsideCell (s : State) (a : Nat) : Prop := a < s.cell ∨ s.cell + 8 ≤ a

/-- s and s' agree on everything but the pc, the count of draws and what a statement names apart: the
inputs (so every flag and status bit, R63), the parameters, the program, the moves to come, the
verdicts. -/
def State.sameSurroundings (s s' : State) : Prop :=
  s'.inp = s.inp ∧ s'.cfg = s.cfg ∧ s'.program = s.program ∧ s'.schedule = s.schedule
    ∧ s'.samples = s.samples

/-- R62, R103: the instruction has completed and moved the pc on; where pc + 4 does not fit in 64 bits
nothing is said of the new pc (log 9). -/
def State.pcAdvanced (s s' : State) : Prop := s.pc.toNat + 4 < 2 ^ 64 → s'.pc = s.pc + 4#64

/-- R116: either instruction, w true for MSR. -/
def sysregMove (w : Bool) (t : BitVec 5) : Instr := if w then .msr t else .mrs t

/-- The decision of either instruction as the pseudocode makes it, w true for MSR. -/
def accessOf (c : Config) (i : Inputs) (w : Bool) : Access := if w then msrAccess c i else mrsAccess c i

/-- R77, D10, D17, D8: the environment lets the memory access of MRS (w false) or MSR (w true) succeed. -/
def State.cellReachable (s : State) (w : Bool) : Prop :=
  s.inp.nvBase.extractLsb' 0 3 = 0#3 ∧ overlapsProgram s.program s.cell 8 = false
    ∧ (if w then s.inp.nvWriteFault else s.inp.nvReadFault) = none

/-- The step that ends with result r stops, and how. -/
def stopOf (r : Result) : Option (Fault ⊕ Refusal) :=
  match r with
  | .next _ => none
  | .fault f => some (.inl f)
  | .refused f => some (.inr f)

end Sys2Proof.Machine
end

