-- ==== Sys2Proof/WellFormed.lean ====
section
/-! DEFINITION. Well-formedness checks: of an instruction, of a program (R83) and of a choice of
parameters (R13). -/

namespace Sys2Proof

/-- R91: t is 0 to 31. The operand's type, 5 bits, already says so: every instruction passes, and an
ill-formed one cannot be written down. -/
def Instr.wf (i : Instr) : Bool := decide (i.operand.toNat ≤ 31)

/-- R83: a program lists 4-byte instruction words (R88) at fixed addresses, strictly rising, no two
words sharing a byte, all inside the 64-bit address space (R62). -/
def Program.wf (p : Program) : Bool :=
  Machine.spacedFrom 4 0 p && p.all (fun e => decide (e.1 + 4 ≤ 2 ^ 64))

/-- R13, R36: each mask of MULTIBIT lies inside the generic set. A check on the parameters; no rule of
the access instructions or of the filter reads it (log 30). -/
def Config.wf (c : Config) : Bool :=
  c.multibit.all (fun e => e.1 &&& ~~~Machine.genericMask == 0#64)

end Sys2Proof
end

