-- ==== Sys2Proof/Certificates/Slice0/Obligations.lean ====
section
/-! DEFINITION. The statements for the provers. A free value (`Config.freeBit`, `Config.freeWord`, …) is
named where a statement needs it; no statement rests on what it is. -/

open Sys2Proof Sys2Proof.Machine

/-! ## Encoding -/

/-- R89, R90: decoding the word of an instruction gives it back, and a word that decodes is the word of
what it decodes to. -/
def Obligations.DecodeEncodeAgree : Prop :=
  (∀ i : Instr, decode (encode i) = .ok i) ∧ (∀ w i, decode w = .ok i → encode i = w)

/-- R97: exactly the two patterns of R89 and R90 are recognised; every other word is refused by name,
also by a step, and is not treated as UNDEFINED. -/
def Obligations.DecoderKnowsExactlyTwoPatterns : Prop :=
  (∀ w : BitVec 32, decode w =
    if w &&& 0xFFFFFFE0#32 = 0xD53899A0#32 then .ok (.mrs (w.setWidth 5))
    else if w &&& 0xFFFFFFE0#32 = 0xD51899A0#32 then .ok (.msr (w.setWidth 5))
    else .error (.notInThisSpec w))
  ∧ (∀ (s : State) (w : BitVec 32), s.schedule = [] → tableFind s.program s.pc.toNat = some w →
      w &&& 0xFFFFFFE0#32 ≠ 0xD53899A0#32 → w &&& 0xFFFFFFE0#32 ≠ 0xD51899A0#32 →
      step s = .refused (.notInThisSpec w))

/-- Words of 30_encoding.md R92, R93 and 95_test_vectors.md 2.1, and a neighbour that is refused. -/
def Obligations.WordsFromTheSpecDecode : Prop :=
  decode 0xD53899A3#32 = .ok (.mrs 3#5) ∧ decode 0xD51899A3#32 = .ok (.msr 3#5)
    ∧ decode 0xD53899BF#32 = .ok (.mrs 31#5) ∧ decode 0xD51899BF#32 = .ok (.msr 31#5)
    ∧ decode 0xD538A9A0#32 = .error (.notInThisSpec 0xD538A9A0#32)
    ∧ decode 0#32 = .error (.notInThisSpec 0#32)

/-- R92, R93, and R94 (general knowledge, log 26): the assembler texts of the rules' examples and the words
they stand for; the generic name, the name XZR and small letters are accepted; another register is not. -/
def Obligations.AssemblerExamples : Prop :=
  (assemble "MRS X3, PMSEVFR_EL1").map encode = some 0xD53899A3#32
    ∧ (assemble "MSR PMSEVFR_EL1, X3").map encode = some 0xD51899A3#32
    ∧ (assemble "mrs x3, S3_0_C9_C9_5").map encode = some 0xD53899A3#32
    ∧ (assemble "MSR PMSEVFR_EL1, XZR").map encode = some 0xD51899BF#32
    ∧ assemble "MRS X3, PMSFCR_EL1" = none

/-! ## The step -/

/-- R100: when the word at pc decodes to i and the PE is to move, the step is exec of i, at the state with
the PE's move taken off the schedule (log 15). The second part says that withFetchWord places an
instruction so that the next step runs it. -/
def Obligations.StepRunsDecodedInstruction : Prop :=
  (∀ (s : State) w i, tableFind s.program s.pc.toNat = some w → decode w = .ok i →
    (s.schedule = [] → step s = exec i s)
    ∧ (∀ rest, s.schedule = .instruction :: rest → step s = exec i { s with schedule := rest }))
  ∧ (∀ (s : State) i, step (s.withFetchWord 32 (encode i).toNat)
      = exec i (s.withFetchWord 32 (encode i).toNat))

/-- R103, R130: every outcome of an instruction is one of those the spec lists, or one of the two
refusals of the memory access (R77, D17). -/
def Obligations.OutcomesAreThoseListed : Prop :=
  ∀ (i : Instr) (s : State),
    (∃ s', exec i s = .next s') ∨ exec i s = .fault .undefined
    ∨ (∃ isRead t, exec i s = .fault (.systemAccessTrap .el2 0x18#6 isRead t))
    ∨ (∃ isRead t, exec i s = .fault (.systemAccessTrap .el3 0x18#6 isRead t))
    ∨ (∃ info, exec i s = .fault (.memFault info))
    ∨ exec i s = .refused .nvBaseMisaligned ∨ exec i s = .refused .overlapsProgram

/-! ## The invariant -/

/-- R53, R57: every step keeps the invariant: register and older values inside WriteMask, no register
without FEAT_SPE, memory canonical. -/
def Obligations.EveryStepKeepsInvariant : Prop :=
  ∀ s s' : State, s.Inv → step s = .next s' → s'.Inv

/-- The state after reset meets the invariant, whatever was drawn. -/
def Obligations.ResetMeetsInvariant : Prop := State.reset.Inv

/-- R6 to R15 "fixed for one implementation", R83 "no store of the model reaches it": no step of any agent
changes the parameters or the program. -/
def Obligations.ParametersAndProgramAreFixed : Prop :=
  ∀ s s' : State, step s = .next s' → s'.cfg = s.cfg ∧ s'.program = s.program

/-- R32: the register is written by an MSR that reaches it and by reset, and by nothing else. -/
def Obligations.OnlyMsrAndResetWriteTheRegister : Prop :=
  ∀ s s' : State, step s = .next s' → s'.reg ≠ s.reg →
    (∃ kind after rest, s.schedule = .reset kind after :: rest)
    ∨ ((s.schedule = [] ∨ ∃ rest, s.schedule = .instruction :: rest)
        ∧ ∃ t, fetch s = .ok (.msr t) ∧ msrAccess s.cfg s.inp = .register
          ∧ s'.reg = s.readX t &&& writeMask s.cfg)

/-- R63, R58: no instruction changes an input, PSTATE.EL among them; a step that changes one is a move of
the environment or a reset. -/
def Obligations.OnlyTheEnvironmentChangesInputs : Prop :=
  ∀ s s' : State, step s = .next s' → s'.inp ≠ s.inp →
    (∃ after rest, s.schedule = .environment after :: rest ∧ s'.inp = after.inp)
    ∨ (∃ kind after rest, s.schedule = .reset kind after :: rest ∧ s'.inp = after.inp)

/-! ## The bits of the register -/

/-- R34: the four constant masks hold the bits the rule lists, are pairwise disjoint and together cover all
64 bits. -/
def Obligations.ConstantMasksPartitionTheRegister : Prop :=
  (∀ x < 64, alwaysRaz.getLsbD x = true ↔
      (32 ≤ x ∧ x ≤ 47 ∨ 19 ≤ x ∧ x ≤ 23 ∨ x = 16 ∨ 8 ≤ x ∧ x ≤ 10 ∨ x = 4 ∨ x = 2 ∨ x = 0))
  ∧ (∀ x < 64, genericMask.getLsbD x = true ↔ (48 ≤ x ∨ 24 ≤ x ∧ x ≤ 31 ∨ 12 ≤ x ∧ x ≤ 15))
  ∧ (∀ x < 64, fixedRw.getLsbD x = true ↔ (x = 7 ∨ x = 5 ∨ x = 3))
  ∧ (∀ x < 64, conditionalMask.getLsbD x = true ↔ (x = 18 ∨ x = 17 ∨ x = 11 ∨ x = 6 ∨ x = 1))
  ∧ alwaysRaz &&& genericMask = 0#64 ∧ alwaysRaz &&& fixedRw = 0#64
  ∧ alwaysRaz &&& conditionalMask = 0#64 ∧ genericMask &&& fixedRw = 0#64
  ∧ genericMask &&& conditionalMask = 0#64 ∧ fixedRw &&& conditionalMask = 0#64
  ∧ alwaysRaz ||| genericMask ||| fixedRw ||| conditionalMask = 0xFFFFFFFFFFFFFFFF#64

/-- R33 against R52: the mask formula and the field map's column of conditions agree at every bit, for
every choice of parameters. -/
def Obligations.WriteMaskMatchesFieldMap : Prop :=
  ∀ (c : Config) (x : Nat), x < 64 → (writeMask c).getLsbD x = bitIsRw c x

/-- R52: for every choice of parameters no always-RAZ bit is in WriteMask, and WriteMask lies between the
smallest mask 0xA8 and the largest 0xFFFF0000FF06F8EA, both of which occur. -/
def Obligations.WriteMaskBounds : Prop :=
  (∀ c : Config, writeMask c &&& alwaysRaz = 0#64
    ∧ writeMask c &&& 0xA8#64 = 0xA8#64
    ∧ writeMask c &&& 0xFFFF0000FF06F8EA#64 = writeMask c)
  ∧ (∃ c, writeMask c = 0xA8#64) ∧ (∃ c, writeMask c = 0xFFFF0000FF06F8EA#64)
  ∧ 0xFFFF0000FF06F8EA#64 = ~~~alwaysRaz

/-- R54, R37 to R51: what a direct read yields at each bit: the stored value at an R/W bit, the draw at
bit 1 when E[1] is not an R/W field, 0 elsewhere. -/
def Obligations.DirectReadBitByBit : Prop :=
  ∀ (s : State) (b : BitVec 1) (x : Nat), s.Inv → x < 64 →
    (regRead s.cfg s.reg b).getLsbD x =
      if bitIsRw s.cfg x then s.reg.getLsbD x
      else if x = 1 then b.getLsbD 0 else false

/-! ## MRS and MSR reaching the register -/

/-- R104, R54, R158(b), with log 9 for the pc: where the levels above permit it, MRS completes, and X[t]
takes RegRead(reg). Number 31 discards the value (R61). -/
def Obligations.MrsReadsTheRegister : Prop :=
  ∀ (s : State) (t : BitVec 5), s.cfg.featSPE = true → s.inp.el ≠ .el0 →
    (s.inp.el = .el3
      ∨ controlsPermit s.cfg s.inp false ∧ ¬(s.inp.el = .el1 ∧ nvRedirect s.inp = true)) →
    ∃ s', exec (.mrs t) s = .next s'
      ∧ (t ≠ 31#5 → s'.readX t = regRead s.cfg s.reg (Config.freeBit s.draws))
      ∧ (t = 31#5 → s'.x = s.x) ∧ s'.reg = s.reg ∧ s.pcAdvanced s'

/-- R107, R53, R158(b), with log 9 for the pc: where the levels above permit it, MSR completes, and reg
takes X[t] AND WriteMask. With t = 31 that is 0 (R61). -/
def Obligations.MsrWritesTheRegister : Prop :=
  ∀ (s : State) (t : BitVec 5), s.cfg.featSPE = true → s.inp.el ≠ .el0 →
    (s.inp.el = .el3
      ∨ controlsPermit s.cfg s.inp true ∧ ¬(s.inp.el = .el1 ∧ nvRedirect s.inp = true)) →
    ∃ s', exec (.msr t) s = .next s'
      ∧ s'.reg = s.readX t &&& writeMask s.cfg ∧ (t = 31#5 → s'.reg = 0#64)
      ∧ s.pcAdvanced s'

/-- R113: at EL3 with FEAT_SPE both instructions always make the plain register access, whatever every
other input is. -/
def Obligations.El3AlwaysReachesTheRegister : Prop :=
  ∀ (c : Config) (i : Inputs) (w : Bool), c.featSPE = true → i.el = .el3 →
    accessOf c i w = .register
    ∧ (∀ (s : State) (t : BitVec 5), s.cfg = c → s.inp = i →
        ∃ s', exec (sysregMove w t) s = .next s'
          ∧ (w = true → s'.reg = s.readX t &&& writeMask c)
          ∧ (w = false → t ≠ 31#5 → s'.readX t = regRead c s.reg (Config.freeBit s.draws)))

/-- R161, R80: a direct read that follows a direct write returns the written value, masked, with nothing
needed in between. -/
def Obligations.ReadAfterWriteReturnsMaskedValue : Prop :=
  ∀ (s s1 s2 : State) (t r : BitVec 5), msrAccess s.cfg s.inp = .register →
    mrsAccess s.cfg s.inp = .register → exec (.msr t) s = .next s1 → exec (.mrs r) s1 = .next s2 →
    r ≠ 31#5 →
    s2.readX r = regRead s.cfg (s.readX t &&& writeMask s.cfg) (Config.freeBit s1.draws)
    ∧ (specActive s.cfg = true → s2.readX r = s.readX t &&& writeMask s.cfg)

/-- R54, R78: two reads with no write between differ at most in bit 1, and in nothing when E[1] is an R/W
field; neither shows a bit outside WriteMask but bit 1. -/
def Obligations.ConsecutiveReadsDifferOnlyInBitOne : Prop :=
  ∀ (s s1 s2 : State) (t r : BitVec 5), s.Inv → mrsAccess s.cfg s.inp = .register →
    exec (.mrs t) s = .next s1 → exec (.mrs r) s1 = .next s2 → t ≠ 31#5 → r ≠ 31#5 →
    (∃ v : Word, s1.readX t = v ∧ v &&& alwaysRaz = 0#64
      ∧ s2.readX r &&& ~~~2#64 = v &&& ~~~2#64
      ∧ (specActive s.cfg = true → s2.readX r = v))

/-! ## The redirect to memory -/

/-- R106: MRS reads memory in place of the register exactly under these conditions, NV1 not among them. -/
def Obligations.MrsReadsMemoryExactlyWhen : Prop :=
  ∀ (c : Config) (i : Inputs),
    (mrsAccess c i = .memory ↔
      c.featSPE = true ∧ i.el = .el1 ∧ i.el2Enabled = true ∧ i.nv2 = 1#1 ∧ i.nv = 1#1
        ∧ fgTrap c i false = false ∧ tpmsTrap i = false ∧ ownerMismatch c i = false)
    ∧ (∀ b, mrsAccess c { i with nv1 := b } = mrsAccess c i)

/-- R109: MSR writes memory in place of the register exactly under the conditions of R106 with
`FGTrap(true)`. -/
def Obligations.MsrWritesMemoryExactlyWhen : Prop :=
  ∀ (c : Config) (i : Inputs),
    (msrAccess c i = .memory ↔
      c.featSPE = true ∧ i.el = .el1 ∧ i.el2Enabled = true ∧ i.nv2 = 1#1 ∧ i.nv = 1#1
        ∧ fgTrap c i true = false ∧ tpmsTrap i = false ∧ ownerMismatch c i = false)
    ∧ (∀ b, msrAccess c { i with nv1 := b } = msrAccess c i)

/-- R104, R75, R147: on the memory path, where the environment lets the access succeed, MRS completes and
X[t] takes the eight bytes of the cell unmasked; the register is not read into it. -/
def Obligations.MrsReadsTheCell : Prop :=
  ∀ (s : State) (t : BitVec 5), mrsAccess s.cfg s.inp = .memory → s.cellReachable false →
    ∃ s', exec (.mrs t) s = .next s'
      ∧ (t ≠ 31#5 → ∀ i < 8,
          byteOfWord s.cfg.nvmemBigEndian (s'.readX t) i = s.mem.byte (s.cell + i))
      ∧ (t = 31#5 → s'.x = s.x) ∧ s'.reg = s.reg ∧ s.pcAdvanced s'

/-- R107, R75, R147: on the memory path, where the environment lets the access succeed, MSR completes and
the eight bytes of the cell take X[t] unmasked; the register is not written. -/
def Obligations.MsrWritesTheCell : Prop :=
  ∀ (s : State) (t : BitVec 5), msrAccess s.cfg s.inp = .memory → s.cellReachable true →
    ∃ s', exec (.msr t) s = .next s'
      ∧ (∀ i < 8, s'.mem.byte (s.cell + i) = byteOfWord s.cfg.nvmemBigEndian (s.readX t) i)
      ∧ s'.reg = s.reg ∧ s'.window = s.window ∧ s.pcAdvanced s'

/-- R76 for NVMEM_BIG_ENDIAN false: after a redirected MSR byte NVBase + 0x830 + i holds bits [8i+7:8i] of
X[t]. -/
def Obligations.CellIsLittleEndianByDefault : Prop :=
  ∀ (s s' : State) (t : BitVec 5), s.cfg.nvmemBigEndian = false →
    msrAccess s.cfg s.inp = .memory → exec (.msr t) s = .next s' →
    s.inp.nvBase.toNat + 0x830 < 2 ^ 64 →
    ∀ i < 8, s'.mem.byte (s.inp.nvBase.toNat + 0x830 + i) = (s.readX t).extractLsb' (8 * i) 8

/-- R75, R80: a redirected read after a redirected write returns the value written, every bit of it, in
either byte order. -/
def Obligations.CellReadAfterWriteIsUnmasked : Prop :=
  ∀ (s s1 s2 : State) (t r : BitVec 5), msrAccess s.cfg s.inp = .memory →
    mrsAccess s.cfg s.inp = .memory → exec (.msr t) s = .next s1 → exec (.mrs r) s1 = .next s2 →
    r ≠ 31#5 → s2.readX r = s.readX t

/-- R117: a value written by MSR at EL1 with the redirect leaves the register as it was, and a later MRS,
at whatever level and with whatever inputs it reaches the register, reads the register, not memory. -/
def Obligations.RedirectedWriteIsNotSeenByTheRegister : Prop :=
  ∀ (s s1 s2 : State) (t r : BitVec 5) (j : Inputs), msrAccess s.cfg s.inp = .memory →
    exec (.msr t) s = .next s1 → s1.reg = s.reg ∧
    (mrsAccess s.cfg j = .register → exec (.mrs r) { s1 with inp := j } = .next s2 → r ≠ 31#5 →
      s2.readX r = regRead s.cfg s.reg (Config.freeBit s1.draws))

/-- R77, D10, D17: on the memory path a misaligned NVBase and a cell over the program are refused, and the
environment's MemFault(info) is passed through. The order of the three is the model's (log 19). -/
def Obligations.MemoryPathStops : Prop :=
  ∀ (s : State) (w : Bool) (t : BitVec 5), accessOf s.cfg s.inp w = .memory →
    (s.inp.nvBase.extractLsb' 0 3 ≠ 0#3 →
      exec (sysregMove w t) s = .refused .nvBaseMisaligned)
    ∧ (s.inp.nvBase.extractLsb' 0 3 = 0#3 → overlapsProgram s.program s.cell 8 = true →
      exec (sysregMove w t) s = .refused .overlapsProgram)
    ∧ (∀ info, s.inp.nvBase.extractLsb' 0 3 = 0#3 → overlapsProgram s.program s.cell 8 = false →
      (if w then s.inp.nvWriteFault else s.inp.nvReadFault) = some info →
      exec (sysregMove w t) s = .fault (.memFault info))

/-! ## Frames -/

/-- R61, R63, R104: what MRS leaves unchanged when it completes, on either path: every general register
but X[t], the register and what sampling may see of it, every byte of memory, every input, parameter
and pending move. -/
def Obligations.MrsFrame : Prop :=
  ∀ (s s' : State) (t : BitVec 5), exec (.mrs t) s = .next s' →
    (∀ r, r ≠ t → s'.readX r = s.readX r) ∧ s'.reg = s.reg ∧ s'.window = s.window
    ∧ (∀ a, s'.mem.byte a = s.mem.byte a) ∧ s.sameSurroundings s'

/-- R61, R63, R107: what MSR leaves unchanged when it completes: every general register, every input,
parameter and pending move; on the register path every byte of memory; on the memory path the
register, and every byte outside the eight of the cell at the address the meaning stores to. -/
def Obligations.MsrFrame : Prop :=
  ∀ (s s' : State) (t : BitVec 5), exec (.msr t) s = .next s' →
    (∀ r, s'.readX r = s.readX r) ∧ s.sameSurroundings s'
    ∧ (msrAccess s.cfg s.inp = .register → ∀ a, s'.mem.byte a = s.mem.byte a)
    ∧ (msrAccess s.cfg s.inp = .memory → s'.reg = s.reg ∧ s'.window = s.window
        ∧ ∀ a, s.outsideCell a → s'.mem.byte a = s.mem.byte a)

/-! ## The decision -/

/-- R110: the compact form and the two pseudocode blocks with the presence check give the same answer for
every choice of parameters and inputs; and `OwnerMismatch` by value. -/
def Obligations.AccessCheckEqualsPseudocode : Prop :=
  (∀ (c : Config) (i : Inputs),
    mrsAccess c i = accessCheck c i false ∧ msrAccess c i = accessCheck c i true)
  ∧ (∀ (c : Config) (i : Inputs),
      (c.haveEL3 = false → ownerMismatch c i = false)
      ∧ (c.haveEL3 = true → i.ns = 0#1 → (ownerMismatch c i = false ↔ i.nspb = 0b01#2))
      ∧ (c.haveEL3 = true → i.ns = 1#1 → (ownerMismatch c i = false ↔ i.nspb = 0b11#2)))

/-- R111: the decision table, rows tried top to bottom, the first whose conditions hold giving the
outcome. -/
def Obligations.DecisionTableHolds : Prop :=
  ∀ (c : Config) (i : Inputs) (w : Bool),
    let el1or2 := i.el == .el1 || i.el == .el2
    let el2Trap := fgTrap c i w || tpmsTrap i
    let rows : List (Bool × Access) :=
      [ (!c.featSPE, .undefined),
        (c.featSPE && i.el == .el0, .undefined),
        (c.featSPE && i.el == .el3, .register),
        (c.featSPE && i.el == .el1 && debugSDD i && c.sddEl3Prio && ownerMismatch c i, .undefined),
        (c.featSPE && i.el == .el1 && el2Trap, .trap .el2 0x18#6),
        (c.featSPE && el1or2 && debugSDD i && ownerMismatch c i, .undefined),
        (c.featSPE && el1or2 && !debugSDD i && ownerMismatch c i, .trap .el3 0x18#6),
        (c.featSPE && i.el == .el1 && !ownerMismatch c i && !el2Trap && nvRedirect i, .memory),
        (c.featSPE && el1or2 && !ownerMismatch c i, .register) ]
    (rows.find? (fun r => r.1)).map (fun r => r.2) = some (accessOf c i w)

/-- R101: with FEAT_SPE false the outcome is `Undefined`, at every Exception level, for MRS and MSR. -/
def Obligations.AbsentRegisterIsUndefined : Prop :=
  ∀ (s : State) (t : BitVec 5), s.cfg.featSPE = false →
    exec (.mrs t) s = .fault .undefined ∧ exec (.msr t) s = .fault .undefined

/-- R115: at EL0 both instructions are `Undefined`, with any parameters and inputs. -/
def Obligations.El0IsUndefined : Prop :=
  ∀ (s : State) (t : BitVec 5), s.inp.el = .el0 →
    exec (.mrs t) s = .fault .undefined ∧ exec (.msr t) s = .fault .undefined

/-- R105: MRS ends in `Undefined` exactly under these conditions, and never at EL3 when FEAT_SPE is
true. -/
def Obligations.MrsUndefinedExactlyWhen : Prop :=
  ∀ (s : State) (t : BitVec 5),
    (exec (.mrs t) s = .fault .undefined ↔
      s.cfg.featSPE = false ∨ s.inp.el = .el0
      ∨ ((s.inp.el = .el1 ∨ s.inp.el = .el2) ∧ s.inp.halted = true ∧ s.inp.sdd = 1#1
          ∧ ownerMismatch s.cfg s.inp = true
          ∧ (s.inp.el = .el2 ∨ s.cfg.sddEl3Prio = true
              ∨ fgTrap s.cfg s.inp false = false ∧ tpmsTrap s.inp = false)))
    ∧ (s.inp.el = .el3 → s.cfg.featSPE = true → exec (.mrs t) s ≠ .fault .undefined)

/-- R108: MSR ends in `Undefined` exactly under the conditions of R105 with `FGTrap(true)`. -/
def Obligations.MsrUndefinedExactlyWhen : Prop :=
  ∀ (s : State) (t : BitVec 5),
    (exec (.msr t) s = .fault .undefined ↔
      s.cfg.featSPE = false ∨ s.inp.el = .el0
      ∨ ((s.inp.el = .el1 ∨ s.inp.el = .el2) ∧ s.inp.halted = true ∧ s.inp.sdd = 1#1
          ∧ ownerMismatch s.cfg s.inp = true
          ∧ (s.inp.el = .el2 ∨ s.cfg.sddEl3Prio = true
              ∨ fgTrap s.cfg s.inp true = false ∧ tpmsTrap s.inp = false)))
    ∧ (s.inp.el = .el3 → s.cfg.featSPE = true → exec (.msr t) s ≠ .fault .undefined)

/-- R135: the causes of `Trap(EL2, 0x18)`, complete: only at EL1, only with EL2 enabled, only when not
pre-empted, and then the fine-grained trap bit of the direction or MDCR_EL2.TPMS. FEAT_SPE is R101's
presence check. -/
def Obligations.TrapToEl2ExactlyWhen : Prop :=
  ∀ (s : State) (w : Bool) (t : BitVec 5),
    exec (sysregMove w t) s = .fault (.systemAccessTrap .el2 0x18#6 (!w) t) ↔
      s.cfg.featSPE = true ∧ s.inp.el = .el1 ∧ s.inp.el2Enabled = true
      ∧ ¬(debugSDD s.inp = true ∧ ownerMismatch s.cfg s.inp = true ∧ s.cfg.sddEl3Prio = true)
      ∧ ((s.cfg.haveEL3 = false ∨ s.inp.fgtEn = 1#1)
            ∧ (if w then s.inp.fgtWrite else s.inp.fgtRead) = 1#1
          ∨ s.inp.tpms = 1#1)

/-- R136: the causes of `Trap(EL3, 0x18)`, complete: at EL1 or EL2, with EL3, when no EL2 trap was taken
first and not (halted with SDD 1), and then the ownership check by NS and NSPB. -/
def Obligations.TrapToEl3ExactlyWhen : Prop :=
  ∀ (s : State) (w : Bool) (t : BitVec 5),
    exec (sysregMove w t) s = .fault (.systemAccessTrap .el3 0x18#6 (!w) t) ↔
      s.cfg.featSPE = true ∧ (s.inp.el = .el1 ∨ s.inp.el = .el2) ∧ s.cfg.haveEL3 = true
      ∧ ¬(s.inp.el = .el1 ∧ (fgTrap s.cfg s.inp w = true ∨ tpmsTrap s.inp = true))
      ∧ ¬(s.inp.halted = true ∧ s.inp.sdd = 1#1)
      ∧ (s.inp.ns = 0#1 ∧ s.inp.nspb ≠ 0b01#2 ∨ s.inp.ns = 1#1 ∧ s.inp.nspb ≠ 0b11#2)

/-- R133, R134, D4: a trap carries class 0x18, the direction and t of its instruction, and goes to EL2 from
EL1 or to EL3 from EL1 or EL2, never to the level it came from or below. -/
def Obligations.TrapCarriesItsInstruction : Prop :=
  ∀ (s : State) (w : Bool) (t r : BitVec 5) (target : EL) (ec : BitVec 6) (isRead : Bool),
    exec (sysregMove w t) s = .fault (.systemAccessTrap target ec isRead r) →
    ec = 0x18#6 ∧ isRead = !w ∧ r = t
      ∧ (target = .el2 ∧ s.inp.el = .el1 ∨ target = .el3 ∧ (s.inp.el = .el1 ∨ s.inp.el = .el2))

/-- R112: SDD_EL3_PRIO decides one case only, and there it decides between `Undefined` and
`Trap(EL2, 0x18)`. -/
def Obligations.SddPriorityDecidesOneCase : Prop :=
  ∀ (c : Config) (i : Inputs) (w : Bool),
    let on := accessOf { c with sddEl3Prio := true } i w
    let off := accessOf { c with sddEl3Prio := false } i w
    (on ≠ off ↔ c.featSPE = true ∧ i.el = .el1 ∧ debugSDD i = true ∧ ownerMismatch c i = true
        ∧ (fgTrap c i w = true ∨ tpmsTrap i = true))
    ∧ (on ≠ off → on = .undefined ∧ off = .trap .el2 0x18#6)

/-- R114: at EL2 the controls of EL2 are not examined, and an access is never trapped to EL2 and never
redirected to memory. -/
def Obligations.El2IgnoresEl2Controls : Prop :=
  ∀ (c : Config) (i j : Inputs) (w : Bool), i.el = .el2 → j.el = .el2 →
    j.halted = i.halted → j.sdd = i.sdd → j.ns = i.ns → j.nspb = i.nspb →
    accessOf c j w = accessOf c i w
    ∧ (∀ ec, accessOf c i w ≠ .trap .el2 ec) ∧ accessOf c i w ≠ .memory

/-- R116: the two decisions differ in the fine-grained trap bit alone, so with equal bits they are the same
kind. -/
def Obligations.MrsAndMsrDecideAlike : Prop :=
  ∀ (c : Config) (i : Inputs),
    msrAccess c i = mrsAccess c { i with fgtRead := i.fgtWrite }
    ∧ (i.fgtRead = i.fgtWrite → msrAccess c i = mrsAccess c i)

/-- R59: with HAVE_EL3 false no outcome depends on NS, FGTEn or NSPB; with EL2Enabled() false none depends
on the fields of HDFGRTR_EL2, HDFGWTR_EL2, MDCR_EL2 and HCR_EL2. -/
def Obligations.GuardedInputsDoNotMatter : Prop :=
  ∀ (c : Config) (i : Inputs) (w : Bool),
    (c.haveEL3 = false → ∀ ns fgtEn nspb,
      accessOf c { i with ns := ns, fgtEn := fgtEn, nspb := nspb } w = accessOf c i w)
    ∧ (i.el2Enabled = false → ∀ r wr tp n2 n1 n,
      accessOf c { i with fgtRead := r, fgtWrite := wr, tpms := tp, nv2 := n2, nv1 := n1, nv := n } w
        = accessOf c i w)

/-- R146: the control of EL3 over EL1 and EL2: with NSPB '00' or '10' no such access reaches the register or
memory; without EL3 the pair does not stop one at EL2. -/
def Obligations.OwnershipBarsLowerLevels : Prop :=
  ∀ (c : Config) (i : Inputs) (w : Bool), i.el = .el1 ∨ i.el = .el2 →
    (c.haveEL3 = true → i.nspb = 0b00#2 ∨ i.nspb = 0b10#2 →
      accessOf c i w ≠ .register ∧ accessOf c i w ≠ .memory)
    ∧ (c.haveEL3 = true → i.ns = 0#1 → i.nspb ≠ 0b01#2 →
      accessOf c i w ≠ .register ∧ accessOf c i w ≠ .memory)
    ∧ (c.haveEL3 = true → i.ns = 1#1 → i.nspb ≠ 0b11#2 →
      accessOf c i w ≠ .register ∧ accessOf c i w ≠ .memory)
    ∧ (c.featSPE = true → c.haveEL3 = false → i.el = .el2 → accessOf c i w = .register)

/-- R148, with R112's case said too: Debug state with SDD 1 turns a trap to EL3 into `Undefined`, leaves an
access that completes as it is, and otherwise changes only a trap to EL2 that R112's priority pre-empts;
Debug state with SDD 0 changes nothing. -/
def Obligations.DebugStateOnlyReplacesTraps : Prop :=
  ∀ (c : Config) (i : Inputs) (w : Bool),
    let running := accessOf c { i with halted := false } w
    let halted := accessOf c { i with halted := true, sdd := 1#1 } w
    (running = .register → halted = .register) ∧ (running = .memory → halted = .memory)
    ∧ (running = .undefined → halted = .undefined)
    ∧ (∀ ec, running = .trap .el3 ec → halted = .undefined)
    ∧ (∀ ec, running = .trap .el2 ec → halted =
        if c.sddEl3Prio && ownerMismatch c i then .undefined else .trap .el2 ec)
    ∧ accessOf c { i with halted := true, sdd := 0#1 } w = running

/-- R100, R103: whether and how an access stops depends on parameters, inputs and program alone: a stopped
access tells nothing of the register, the general registers or memory. -/
def Obligations.StopsRevealNoContents : Prop :=
  ∀ (s1 s2 : State) (i : Instr), s1.cfg = s2.cfg → s1.inp = s2.inp → s1.program = s2.program →
    stopOf (exec i s1) = stopOf (exec i s2)

/-- R134 (general knowledge, log 33): the syndrome of a trap, packed. -/
def Obligations.SyndromePacking : Prop :=
  ∀ t : BitVec 5, trapSyndrome 0x18#6 true t = 0x623A2413#32 ||| t.setWidth 32 <<< 5
    ∧ trapSyndrome 0x18#6 false t = 0x623A2412#32 ||| t.setWidth 32 <<< 5

/-! ## The event filter and sampling -/

/-- R55: with FE 0 every sample passes; with FE 1 a sample passes exactly when it has every event whose
filter bit is an R/W field set to 1 and lies in no multi-bit event, and every multi-bit filter holds. -/
def Obligations.EventFilterBitByBit : Prop :=
  ∀ (c : Config) (reg : Word) (ev : Word),
    eventFilterPass c reg 0#1 ev = true
    ∧ (eventFilterPass c reg 1#1 ev = true ↔
        (∀ x < 64, bitIsRw c x = true → reg.getLsbD x = true →
          (∀ e ∈ c.multibit, e.1.getLsbD x = false) → ev.getLsbD x = true)
        ∧ ∀ e ∈ c.multibit,
            Config.multibitFilter e.2 (reg &&& writeMask c &&& e.1) (ev &&& e.1) = true)

/-- R57: a bit that is no R/W field never filters, bit 1 among them when E[1] is not one; a register that
meets the invariant filters with its own value; with FE 0 all of it is ignored. -/
def Obligations.OnlyWritableBitsFilter : Prop :=
  (∀ (c : Config) (v v' : Word) (fe : BitVec 1) (ev : Word),
    v &&& writeMask c = v' &&& writeMask c → eventFilterPass c v fe ev = eventFilterPass c v' fe ev)
  ∧ (∀ (c : Config) (v : Word), specActive c = false →
      (effectiveFilter c v).getLsbD 1 = false)
  ∧ (∀ s : State, s.Inv → effectiveFilter s.cfg s.reg = s.reg)
  ∧ (∀ (c : Config) (v ev : Word), eventFilterPass c v 0#1 ev = true)

/-- R44, R46, R48, R35 to R45 for a single-bit event x: with FE 1 and E[x] an R/W field set to 1, a sample
without event x is not recorded. -/
def Obligations.SampleWithoutRequiredEventIsDropped : Prop :=
  ∀ (s s' : State) (ev : Word) (rest : List Move) (x : Nat), s.schedule = .sample ev :: rest →
    s.cfg.featSPE = true → s.inp.fe = 1#1 → s.window = [] → x < 64 → bitIsRw s.cfg x = true →
    (∀ e ∈ s.cfg.multibit, e.1.getLsbD x = false) → s.reg.getLsbD x = true →
    ev.getLsbD x = false → step s = .next s' → s'.samples = s.samples ++ [⟨ev, false⟩]

/-- R162 and log 16: a sample is filtered with reg when no window is open, and otherwise with reg or one of
the older values of the window; taking it changes no register, memory, input or window. -/
def Obligations.SampleUsesOldOrNewValue : Prop :=
  ∀ (s : State) (ev : Word) (rest : List Move), s.schedule = .sample ev :: rest →
    s.cfg.featSPE = true →
    ∃ s' v, step s = .next s' ∧ (v = s.reg ∨ v ∈ s.window) ∧ (s.window = [] → v = s.reg)
      ∧ s'.samples = s.samples ++ [⟨ev, eventFilterPass s.cfg v s.inp.fe ev⟩]
      ∧ s'.reg = s.reg ∧ s'.window = s.window ∧ s'.x = s.x ∧ s'.pc = s.pc ∧ s'.mem = s.mem
      ∧ s'.inp = s.inp ∧ s'.schedule = rest

/-- R162 and log 16: the window: a completed MSR to the register keeps the old value visible to sampling;
SyncPoint closes the window and changes nothing else. -/
def Obligations.WindowOpensAtMsrAndClosesAtSyncPoint : Prop :=
  (∀ (s s' : State) (t : BitVec 5), msrAccess s.cfg s.inp = .register →
    exec (.msr t) s = .next s' → s'.window = s.reg :: s.window)
  ∧ (∀ (s : State) (rest : List Move), s.schedule = .syncPoint :: rest →
      step s = .next { s with schedule := rest, window := [] })

/-! ## Reset and the environment's moves -/

/-- R66, R67, R155 to R157: a reset of any kind leaves in the register a draw under WriteMask, so 0 in
every RAZ/WI bit; memory, program and parameters stay; pc, general registers and inputs are the
environment's. The model's choices, no rule's: the draw is the one the counter names and the counter
goes up by one (logs 7 and 8); the sampling window is emptied (log 16, DEDUCED from R163, by which the
value drawn at reset is the filter value until the first MSR); the verdicts stay and the schedule
moves on (logs 15 and 25). -/
def Obligations.ResetDrawsTheRegister : Prop :=
  ∀ (s : State) (kind : ResetKind) (after : Context) (rest : List Move),
    s.schedule = .reset kind after :: rest → s.cfg.featSPE = true →
    ∃ s', step s = .next s'
      ∧ s'.reg = Config.freeWord s.draws &&& writeMask s.cfg
      ∧ (∀ x, bitIsRw s.cfg x = false → x < 64 → s'.reg.getLsbD x = false)
      ∧ s'.window = [] ∧ s'.draws = s.draws + 1
      ∧ s'.pc = after.pc ∧ s'.x = after.x ∧ s'.inp = after.inp
      ∧ (∀ a, s'.mem.byte a = s.mem.byte a) ∧ s'.program = s.program ∧ s'.cfg = s.cfg
      ∧ s'.samples = s.samples ∧ s'.schedule = rest

/-- R66, R163: after a reset, a direct read at EL3 shows 0 in every RAZ/WI bit and the drawn value in every
R/W bit: the first read shows what reset drew. Which draws these are, numbered by the counter, is the
model's choice (log 8). -/
def Obligations.FirstReadAfterResetShowsTheDraw : Prop :=
  ∀ (s s1 s2 : State) (kind : ResetKind) (after : Context) (rest : List Move) (t : BitVec 5),
    s.schedule = .reset kind after :: rest → s.cfg.featSPE = true → after.inp.el = .el3 →
    step s = .next s1 → exec (.mrs t) s1 = .next s2 → t ≠ 31#5 →
    ∀ x < 64, (s2.readX t).getLsbD x =
      if bitIsRw s.cfg x then (Config.freeWord s.draws).getLsbD x
      else if x = 1 then (Config.freeBit (s.draws + 1)).getLsbD 0 else false

/-- R80, R83, D22, with log 15: another agent's store changes that byte of memory and nothing else, and one
that would reach the program is refused; the environment's own move changes pc, general registers and
inputs and nothing else. -/
def Obligations.EnvironmentMovesFrame : Prop :=
  ∀ (s : State) (rest : List Move),
    (∀ a b, s.schedule = .store a b :: rest → overlapsProgram s.program a.toNat 1 = true →
      step s = .refused .overlapsProgram)
    ∧ (∀ a b, s.schedule = .store a b :: rest → overlapsProgram s.program a.toNat 1 = false →
      ∃ s', step s = .next s'
        ∧ (∀ k, s'.mem.byte k = if k = a.toNat then b else s.mem.byte k)
        ∧ s' = { s with schedule := rest, mem := s'.mem })
    ∧ (∀ after, s.schedule = .environment after :: rest →
      step s = .next { s with schedule := rest, pc := after.pc, x := after.x, inp := after.inp })
end

