-- ==== Sys2Proof/Laws/Memory.lean ====
section
/-! SUPPORT. Tables and memory: read after write, what a write leaves alone, the canonical form. -/

namespace Sys2Proof.Machine

section Tables
variable {α : Type}

@[simp] theorem tableFind_put_same (m : List (Nat × α)) (a : Nat) (v : α) :
    tableFind (tablePut m a v) a = some v := by
  induction m with
  | nil => simp [tablePut, tableFind]
  | cons e rest ih =>
    obtain ⟨k, w⟩ := e
    by_cases h1 : a < k
    · simp [tablePut, tableFind, h1]
    · by_cases h2 : a = k <;> simp [tablePut, tableFind, h1, h2, ih]

theorem tableFind_put_ne (m : List (Nat × α)) {a b : Nat} (v : α) (h : b ≠ a) :
    tableFind (tablePut m a v) b = tableFind m b := by
  induction m with
  | nil => simp [tablePut, tableFind, h]
  | cons e rest ih =>
    obtain ⟨k, w⟩ := e
    by_cases h1 : a < k
    · simp [tablePut, tableFind, h1, h]
    · by_cases h2 : a = k
      · subst h2; simp [tablePut, tableFind, h]
      · simp [tablePut, tableFind, h1, h2, ih]

/-- A write keeps addresses strictly rising. -/
theorem spacedFrom_put (m : List (Nat × α)) {lo a : Nat} (v : α) (ha : lo ≤ a)
    (h : spacedFrom 1 lo m = true) : spacedFrom 1 lo (tablePut m a v) = true := by
  induction m generalizing lo with
  | nil => simpa [tablePut, spacedFrom] using ha
  | cons e rest ih =>
    obtain ⟨k, w⟩ := e
    simp only [spacedFrom, Bool.and_eq_true, decide_eq_true_eq] at h
    by_cases h1 : a < k
    · simp only [tablePut, h1, if_true, spacedFrom, Bool.and_eq_true, decide_eq_true_eq]
      exact ⟨ha, by omega, h.2⟩
    · by_cases h2 : a = k
      · subst h2; simpa [tablePut, spacedFrom] using h
      · simp only [tablePut, h1, h2, if_false, spacedFrom, Bool.and_eq_true, decide_eq_true_eq]
        exact ⟨h.1, ih (by omega) h.2⟩

/-- A write lists no address but its own beside those listed before. -/
theorem all_put (m : List (Nat × α)) {a : Nat} (v : α) (p : Nat → Bool) (ha : p a = true)
    (h : m.all (fun e => p e.1) = true) : (tablePut m a v).all (fun e => p e.1) = true := by
  induction m with
  | nil => simpa [tablePut] using ha
  | cons e rest ih =>
    obtain ⟨k, w⟩ := e
    simp only [List.all_cons, Bool.and_eq_true] at h
    by_cases h1 : a < k
    · simp [tablePut, h1, ha, h.1, h.2]
    · by_cases h2 : a = k
      · subst h2; simp [tablePut, h.1, h.2]
      · simp [tablePut, h1, h2, h.1, ih h.2]

end Tables

theorem Memory.byte_putByte (m : Memory) (a b : Nat) (v : Byte) :
    (m.putByte a v).byte b = if b = a then v else m.byte b := by
  by_cases h : b = a
  · subst h; simp [Memory.putByte, Memory.byte]
  · simp [Memory.putByte, Memory.byte, tableFind_put_ne _ _ h, h]

theorem Memory.putByte_wf {m : Memory} {a : Nat} (v : Byte) (ha : a < 2 ^ 64)
    (h : m.wf = true) : (m.putByte a v).wf = true := by
  simp only [Memory.wf, Bool.and_eq_true] at h ⊢
  exact ⟨spacedFrom_put m v (Nat.zero_le a) h.1,
    all_put m v (fun k => decide (k < 2 ^ 64)) (by simpa using ha) h.2⟩

/-- The bytes of a run of stores, and every other byte as before. -/
theorem Memory.byte_putBytes (m : Memory) (a : Nat) (f : Nat → Byte) (n b : Nat) :
    (m.putBytes a f n).byte b = if a ≤ b ∧ b < a + n then f (b - a) else m.byte b := by
  induction n with
  | zero => simp only [Memory.putBytes]; rw [if_neg (by omega)]
  | succ n ih =>
    simp only [Memory.putBytes, Memory.byte_putByte, ih]
    by_cases h : b = a + n
    · subst h; simp
    · by_cases h2 : a ≤ b ∧ b < a + n
      · rw [if_neg h, if_pos h2, if_pos (by omega)]
      · rw [if_neg h, if_neg h2, if_neg (by omega)]

theorem Memory.putBytes_wf {m : Memory} {a : Nat} (f : Nat → Byte) (n : Nat)
    (ha : a + n ≤ 2 ^ 64) (h : m.wf = true) : (m.putBytes a f n).wf = true := by
  induction n with
  | zero => exact h
  | succ n ih => exact Memory.putByte_wf _ (by omega) (ih (by omega))

/-- Splitting a word into bytes and joining them gives the word, in either byte order. -/
theorem wordOfBytes_byteOfWord (be : Bool) (v : Word) :
    wordOfBytes be (byteOfWord be v) = v := by
  apply BitVec.eq_of_getLsbD_eq
  intro i hi
  have : i < 64 := hi
  cases be <;>
    simp only [wordOfBytes, byteOfWord, BitVec.getLsbD_append, BitVec.getLsbD_extractLsb', if_true,
      Bool.false_eq_true, if_false] <;>
    interval_cases i <;> simp

theorem wordOfBytes_congr (be : Bool) {f g : Nat → Byte} (h : ∀ i, i < 8 → f i = g i) :
    wordOfBytes be f = wordOfBytes be g := by
  unfold wordOfBytes
  rw [h 0 (by omega), h 1 (by omega), h 2 (by omega), h 3 (by omega), h 4 (by omega),
    h 5 (by omega), h 6 (by omega), h 7 (by omega)]

/-- R80: a read of the cell returns the last write. -/
theorem Memory.readWord_writeWord (m : Memory) (be : Bool) (a : Nat) (v : Word) :
    (m.writeWord be a v).readWord be a = v := by
  unfold Memory.readWord Memory.writeWord
  refine (wordOfBytes_congr be fun i hi => ?_).trans (wordOfBytes_byteOfWord be v)
  rw [Memory.byte_putBytes, if_pos (by omega)]; congr 1; omega

theorem Memory.byte_writeWord (m : Memory) (be : Bool) (a b : Nat) (v : Word) :
    (m.writeWord be a v).byte b = if a ≤ b ∧ b < a + 8 then byteOfWord be v (b - a) else m.byte b :=
  Memory.byte_putBytes m a _ 8 b

theorem Memory.writeWord_wf {m : Memory} {a : Nat} (be : Bool) (v : Word) (ha : a + 8 ≤ 2 ^ 64)
    (h : m.wf = true) : (m.writeWord be a v).wf = true :=
  Memory.putBytes_wf _ 8 ha h

end Sys2Proof.Machine
end

