-- ==== Sys2Proof/Laws/State.lean ====
section
/-! SUPPORT. One lemma per field per update of State, so that no later proof unfolds one. -/

namespace Sys2Proof.Machine

variable (s : State)

@[simp] theorem State.nextDraw_reg : s.nextDraw.reg = s.reg := rfl
@[simp] theorem State.nextDraw_x : s.nextDraw.x = s.x := rfl
@[simp] theorem State.nextDraw_pc : s.nextDraw.pc = s.pc := rfl
@[simp] theorem State.nextDraw_mem : s.nextDraw.mem = s.mem := rfl
@[simp] theorem State.nextDraw_window : s.nextDraw.window = s.window := rfl
@[simp] theorem State.nextDraw_inp : s.nextDraw.inp = s.inp := rfl
@[simp] theorem State.nextDraw_cfg : s.nextDraw.cfg = s.cfg := rfl
@[simp] theorem State.nextDraw_program : s.nextDraw.program = s.program := rfl
@[simp] theorem State.nextDraw_schedule : s.nextDraw.schedule = s.schedule := rfl
@[simp] theorem State.nextDraw_samples : s.nextDraw.samples = s.samples := rfl
@[simp] theorem State.nextDraw_draws : s.nextDraw.draws = s.draws + 1 := rfl

@[simp] theorem State.writeX_reg (t : BitVec 5) (v : Word) : (s.writeX t v).reg = s.reg := by
  unfold State.writeX; split <;> rfl
@[simp] theorem State.writeX_x (t : BitVec 5) (v : Word) : (s.writeX t v).x = if t = 31#5 then s.x else s.x.setIfInBounds t.toNat v := by
  unfold State.writeX; split <;> rfl
@[simp] theorem State.writeX_pc (t : BitVec 5) (v : Word) : (s.writeX t v).pc = s.pc := by
  unfold State.writeX; split <;> rfl
@[simp] theorem State.writeX_mem (t : BitVec 5) (v : Word) : (s.writeX t v).mem = s.mem := by
  unfold State.writeX; split <;> rfl
@[simp] theorem State.writeX_window (t : BitVec 5) (v : Word) : (s.writeX t v).window = s.window := by
  unfold State.writeX; split <;> rfl
@[simp] theorem State.writeX_inp (t : BitVec 5) (v : Word) : (s.writeX t v).inp = s.inp := by
  unfold State.writeX; split <;> rfl
@[simp] theorem State.writeX_cfg (t : BitVec 5) (v : Word) : (s.writeX t v).cfg = s.cfg := by
  unfold State.writeX; split <;> rfl
@[simp] theorem State.writeX_program (t : BitVec 5) (v : Word) : (s.writeX t v).program = s.program := by
  unfold State.writeX; split <;> rfl
@[simp] theorem State.writeX_schedule (t : BitVec 5) (v : Word) : (s.writeX t v).schedule = s.schedule := by
  unfold State.writeX; split <;> rfl
@[simp] theorem State.writeX_samples (t : BitVec 5) (v : Word) : (s.writeX t v).samples = s.samples := by
  unfold State.writeX; split <;> rfl
@[simp] theorem State.writeX_draws (t : BitVec 5) (v : Word) : (s.writeX t v).draws = s.draws := by
  unfold State.writeX; split <;> rfl

@[simp] theorem State.directWrite_reg (v : Word) : (s.directWrite v).reg = v &&& writeMask s.cfg := rfl
@[simp] theorem State.directWrite_x (v : Word) : (s.directWrite v).x = s.x := rfl
@[simp] theorem State.directWrite_pc (v : Word) : (s.directWrite v).pc = s.pc := rfl
@[simp] theorem State.directWrite_mem (v : Word) : (s.directWrite v).mem = s.mem := rfl
@[simp] theorem State.directWrite_window (v : Word) : (s.directWrite v).window = s.reg :: s.window := rfl
@[simp] theorem State.directWrite_inp (v : Word) : (s.directWrite v).inp = s.inp := rfl
@[simp] theorem State.directWrite_cfg (v : Word) : (s.directWrite v).cfg = s.cfg := rfl
@[simp] theorem State.directWrite_program (v : Word) : (s.directWrite v).program = s.program := rfl
@[simp] theorem State.directWrite_schedule (v : Word) : (s.directWrite v).schedule = s.schedule := rfl
@[simp] theorem State.directWrite_samples (v : Word) : (s.directWrite v).samples = s.samples := rfl
@[simp] theorem State.directWrite_draws (v : Word) : (s.directWrite v).draws = s.draws := rfl

@[simp] theorem State.writeCell_reg (v : Word) : (s.writeCell v).reg = s.reg := rfl
@[simp] theorem State.writeCell_x (v : Word) : (s.writeCell v).x = s.x := rfl
@[simp] theorem State.writeCell_pc (v : Word) : (s.writeCell v).pc = s.pc := rfl
@[simp] theorem State.writeCell_mem (v : Word) : (s.writeCell v).mem = s.mem.writeWord s.cfg.nvmemBigEndian s.cell v := rfl
@[simp] theorem State.writeCell_window (v : Word) : (s.writeCell v).window = s.window := rfl
@[simp] theorem State.writeCell_inp (v : Word) : (s.writeCell v).inp = s.inp := rfl
@[simp] theorem State.writeCell_cfg (v : Word) : (s.writeCell v).cfg = s.cfg := rfl
@[simp] theorem State.writeCell_program (v : Word) : (s.writeCell v).program = s.program := rfl
@[simp] theorem State.writeCell_schedule (v : Word) : (s.writeCell v).schedule = s.schedule := rfl
@[simp] theorem State.writeCell_samples (v : Word) : (s.writeCell v).samples = s.samples := rfl
@[simp] theorem State.writeCell_draws (v : Word) : (s.writeCell v).draws = s.draws := rfl

@[simp] theorem State.advancePc_reg : s.advancePc.reg = s.reg := by
  unfold State.advancePc; split <;> rfl
@[simp] theorem State.advancePc_x : s.advancePc.x = s.x := by
  unfold State.advancePc; split <;> rfl
@[simp] theorem State.advancePc_pc : s.advancePc.pc = if s.pc.toNat + 4 < 2 ^ 64 then s.pc + 4#64 else Config.freeWord s.draws := by
  unfold State.advancePc; split <;> rfl
@[simp] theorem State.advancePc_mem : s.advancePc.mem = s.mem := by
  unfold State.advancePc; split <;> rfl
@[simp] theorem State.advancePc_window : s.advancePc.window = s.window := by
  unfold State.advancePc; split <;> rfl
@[simp] theorem State.advancePc_inp : s.advancePc.inp = s.inp := by
  unfold State.advancePc; split <;> rfl
@[simp] theorem State.advancePc_cfg : s.advancePc.cfg = s.cfg := by
  unfold State.advancePc; split <;> rfl
@[simp] theorem State.advancePc_program : s.advancePc.program = s.program := by
  unfold State.advancePc; split <;> rfl
@[simp] theorem State.advancePc_schedule : s.advancePc.schedule = s.schedule := by
  unfold State.advancePc; split <;> rfl
@[simp] theorem State.advancePc_samples : s.advancePc.samples = s.samples := by
  unfold State.advancePc; split <;> rfl
@[simp] theorem State.advancePc_draws : s.advancePc.draws = if s.pc.toNat + 4 < 2 ^ 64 then s.draws else s.draws + 1 := by
  unfold State.advancePc; split <;> rfl

@[simp] theorem State.afterDirectRead_reg : s.afterDirectRead.reg = s.reg := by
  unfold State.afterDirectRead; split <;> rfl
@[simp] theorem State.afterDirectRead_x : s.afterDirectRead.x = s.x := by
  unfold State.afterDirectRead; split <;> rfl
@[simp] theorem State.afterDirectRead_pc : s.afterDirectRead.pc = s.pc := by
  unfold State.afterDirectRead; split <;> rfl
@[simp] theorem State.afterDirectRead_mem : s.afterDirectRead.mem = s.mem := by
  unfold State.afterDirectRead; split <;> rfl
@[simp] theorem State.afterDirectRead_window : s.afterDirectRead.window = s.window := by
  unfold State.afterDirectRead; split <;> rfl
@[simp] theorem State.afterDirectRead_inp : s.afterDirectRead.inp = s.inp := by
  unfold State.afterDirectRead; split <;> rfl
@[simp] theorem State.afterDirectRead_cfg : s.afterDirectRead.cfg = s.cfg := by
  unfold State.afterDirectRead; split <;> rfl
@[simp] theorem State.afterDirectRead_program : s.afterDirectRead.program = s.program := by
  unfold State.afterDirectRead; split <;> rfl
@[simp] theorem State.afterDirectRead_schedule : s.afterDirectRead.schedule = s.schedule := by
  unfold State.afterDirectRead; split <;> rfl
@[simp] theorem State.afterDirectRead_samples : s.afterDirectRead.samples = s.samples := by
  unfold State.afterDirectRead; split <;> rfl
@[simp] theorem State.afterDirectRead_draws : s.afterDirectRead.draws = if specActive s.cfg then s.draws else s.draws + 1 := by
  unfold State.afterDirectRead; split <;> rfl

@[simp] theorem State.syncPoint_reg : s.syncPoint.reg = s.reg := rfl
@[simp] theorem State.syncPoint_x : s.syncPoint.x = s.x := rfl
@[simp] theorem State.syncPoint_pc : s.syncPoint.pc = s.pc := rfl
@[simp] theorem State.syncPoint_mem : s.syncPoint.mem = s.mem := rfl
@[simp] theorem State.syncPoint_window : s.syncPoint.window = [] := rfl
@[simp] theorem State.syncPoint_inp : s.syncPoint.inp = s.inp := rfl
@[simp] theorem State.syncPoint_cfg : s.syncPoint.cfg = s.cfg := rfl
@[simp] theorem State.syncPoint_program : s.syncPoint.program = s.program := rfl
@[simp] theorem State.syncPoint_schedule : s.syncPoint.schedule = s.schedule := rfl
@[simp] theorem State.syncPoint_samples : s.syncPoint.samples = s.samples := rfl
@[simp] theorem State.syncPoint_draws : s.syncPoint.draws = s.draws := rfl

@[simp] theorem State.withContext_reg (after : Context) : (s.withContext after).reg = s.reg := rfl
@[simp] theorem State.withContext_x (after : Context) : (s.withContext after).x = after.x := rfl
@[simp] theorem State.withContext_pc (after : Context) : (s.withContext after).pc = after.pc := rfl
@[simp] theorem State.withContext_mem (after : Context) : (s.withContext after).mem = s.mem := rfl
@[simp] theorem State.withContext_window (after : Context) : (s.withContext after).window = s.window := rfl
@[simp] theorem State.withContext_inp (after : Context) : (s.withContext after).inp = after.inp := rfl
@[simp] theorem State.withContext_cfg (after : Context) : (s.withContext after).cfg = s.cfg := rfl
@[simp] theorem State.withContext_program (after : Context) : (s.withContext after).program = s.program := rfl
@[simp] theorem State.withContext_schedule (after : Context) : (s.withContext after).schedule = s.schedule := rfl
@[simp] theorem State.withContext_samples (after : Context) : (s.withContext after).samples = s.samples := rfl
@[simp] theorem State.withContext_draws (after : Context) : (s.withContext after).draws = s.draws := rfl

@[simp] theorem State.doReset_reg (kind : ResetKind) (after : Context) : (s.doReset kind after).reg = resetReg s.cfg (Config.freeWord s.draws) := rfl
@[simp] theorem State.doReset_x (kind : ResetKind) (after : Context) : (s.doReset kind after).x = after.x := rfl
@[simp] theorem State.doReset_pc (kind : ResetKind) (after : Context) : (s.doReset kind after).pc = after.pc := rfl
@[simp] theorem State.doReset_mem (kind : ResetKind) (after : Context) : (s.doReset kind after).mem = s.mem := rfl
@[simp] theorem State.doReset_window (kind : ResetKind) (after : Context) : (s.doReset kind after).window = [] := rfl
@[simp] theorem State.doReset_inp (kind : ResetKind) (after : Context) : (s.doReset kind after).inp = after.inp := rfl
@[simp] theorem State.doReset_cfg (kind : ResetKind) (after : Context) : (s.doReset kind after).cfg = s.cfg := rfl
@[simp] theorem State.doReset_program (kind : ResetKind) (after : Context) : (s.doReset kind after).program = s.program := rfl
@[simp] theorem State.doReset_schedule (kind : ResetKind) (after : Context) : (s.doReset kind after).schedule = s.schedule := rfl
@[simp] theorem State.doReset_samples (kind : ResetKind) (after : Context) : (s.doReset kind after).samples = s.samples := rfl
@[simp] theorem State.doReset_draws (kind : ResetKind) (after : Context) : (s.doReset kind after).draws = s.draws + 1 := rfl

@[simp] theorem State.withWordAtPc_reg (w : BitVec 32) : (s.withWordAtPc w).reg = s.reg := rfl
@[simp] theorem State.withWordAtPc_x (w : BitVec 32) : (s.withWordAtPc w).x = s.x := rfl
@[simp] theorem State.withWordAtPc_pc (w : BitVec 32) : (s.withWordAtPc w).pc = s.pc := rfl
@[simp] theorem State.withWordAtPc_mem (w : BitVec 32) : (s.withWordAtPc w).mem = s.mem := rfl
@[simp] theorem State.withWordAtPc_window (w : BitVec 32) : (s.withWordAtPc w).window = s.window := rfl
@[simp] theorem State.withWordAtPc_inp (w : BitVec 32) : (s.withWordAtPc w).inp = s.inp := rfl
@[simp] theorem State.withWordAtPc_cfg (w : BitVec 32) : (s.withWordAtPc w).cfg = s.cfg := rfl
@[simp] theorem State.withWordAtPc_program (w : BitVec 32) : (s.withWordAtPc w).program = tablePut s.program s.pc.toNat w := rfl
@[simp] theorem State.withWordAtPc_schedule (w : BitVec 32) : (s.withWordAtPc w).schedule = [] := rfl
@[simp] theorem State.withWordAtPc_samples (w : BitVec 32) : (s.withWordAtPc w).samples = s.samples := rfl
@[simp] theorem State.withWordAtPc_draws (w : BitVec 32) : (s.withWordAtPc w).draws = s.draws := rfl

@[simp] theorem State.afterSampleChoice_reg : s.afterSampleChoice.reg = s.reg := by
  unfold State.afterSampleChoice; split <;> rfl
@[simp] theorem State.afterSampleChoice_x : s.afterSampleChoice.x = s.x := by
  unfold State.afterSampleChoice; split <;> rfl
@[simp] theorem State.afterSampleChoice_pc : s.afterSampleChoice.pc = s.pc := by
  unfold State.afterSampleChoice; split <;> rfl
@[simp] theorem State.afterSampleChoice_mem : s.afterSampleChoice.mem = s.mem := by
  unfold State.afterSampleChoice; split <;> rfl
@[simp] theorem State.afterSampleChoice_window : s.afterSampleChoice.window = s.window := by
  unfold State.afterSampleChoice; split <;> rfl
@[simp] theorem State.afterSampleChoice_inp : s.afterSampleChoice.inp = s.inp := by
  unfold State.afterSampleChoice; split <;> rfl
@[simp] theorem State.afterSampleChoice_cfg : s.afterSampleChoice.cfg = s.cfg := by
  unfold State.afterSampleChoice; split <;> rfl
@[simp] theorem State.afterSampleChoice_program : s.afterSampleChoice.program = s.program := by
  unfold State.afterSampleChoice; split <;> rfl
@[simp] theorem State.afterSampleChoice_schedule : s.afterSampleChoice.schedule = s.schedule := by
  unfold State.afterSampleChoice; split <;> rfl
@[simp] theorem State.afterSampleChoice_samples : s.afterSampleChoice.samples = s.samples := by
  unfold State.afterSampleChoice; split <;> rfl

@[simp] theorem State.takeSample_reg (ev : Word) : (s.takeSample ev).reg = s.reg := by
  simp [State.takeSample]
@[simp] theorem State.takeSample_x (ev : Word) : (s.takeSample ev).x = s.x := by
  simp [State.takeSample]
@[simp] theorem State.takeSample_pc (ev : Word) : (s.takeSample ev).pc = s.pc := by
  simp [State.takeSample]
@[simp] theorem State.takeSample_mem (ev : Word) : (s.takeSample ev).mem = s.mem := by
  simp [State.takeSample]
@[simp] theorem State.takeSample_window (ev : Word) : (s.takeSample ev).window = s.window := by
  simp [State.takeSample]
@[simp] theorem State.takeSample_inp (ev : Word) : (s.takeSample ev).inp = s.inp := by
  simp [State.takeSample]
@[simp] theorem State.takeSample_cfg (ev : Word) : (s.takeSample ev).cfg = s.cfg := by
  simp [State.takeSample]
@[simp] theorem State.takeSample_program (ev : Word) : (s.takeSample ev).program = s.program := by
  simp [State.takeSample]
@[simp] theorem State.takeSample_schedule (ev : Word) : (s.takeSample ev).schedule = s.schedule := by
  simp [State.takeSample]

end Sys2Proof.Machine
end

