-- ==== Sys2Proof/Laws/Ops.lean ====
section
/-! SUPPORT. What each shared operation can do, said once; the inversion lemmas of the instructions and
of a step. -/

namespace Sys2Proof.Machine

variable {s s' : State} {t : BitVec 5}

/-! Registers (R61). -/

@[simp] theorem State.readX_zero (s : State) : s.readX 31#5 = 0#64 := rfl

@[simp] theorem State.writeX_zero (s : State) (v : Word) : s.writeX 31#5 v = s := rfl

theorem State.readX_congr (h : s'.x = s.x) (t : BitVec 5) : s'.readX t = s.readX t := by
  simp [State.readX, h]

theorem operand_lt_of_ne {t : BitVec 5} (h : t ≠ 31#5) : t.toNat < 31 := by
  have := t.isLt
  have h2 : t.toNat ≠ 31 := fun e => h (BitVec.eq_of_toNat_eq (by simpa using e))
  omega

theorem State.readX_writeX_same (s : State) (v : Word) (h : t ≠ 31#5) :
    (s.writeX t v).readX t = v := by
  have := operand_lt_of_ne h
  simp [State.readX, State.writeX, h, this]

theorem State.readX_writeX_ne (s : State) (v : Word) {r : BitVec 5} (h : r ≠ t) :
    (s.writeX t v).readX r = s.readX r := by
  have h2 : t.toNat ≠ r.toNat := fun e => h (BitVec.eq_of_toNat_eq e.symm)
  by_cases ht : t = 31#5
  · simp [State.writeX, ht]
  · simp [State.readX, State.writeX, ht, h2]

/-! The register PMSEVFR_EL1 (R50 to R54). -/

theorem regRead_of_active {c : Config} (h : specActive c = true) (v : Word) (b : BitVec 1) :
    regRead c v b = v := by
  simp [regRead, h]

theorem masked_holdable (v m : Word) : v &&& m &&& ~~~m = 0#64 := by
  apply BitVec.eq_of_getLsbD_eq; intro i hi
  simp only [BitVec.getLsbD_and, BitVec.getLsbD_not]
  cases m.getLsbD i <;> simp

/-! The pc (R62). -/

theorem State.advancePc_pc_of_lt (h : s.pc.toNat + 4 < 2 ^ 64) : s.advancePc.pc = s.pc + 4#64 := by
  rw [State.advancePc_pc, if_pos h]

/-! The cell (R73, R77). -/

theorem nvCellAddr_of_lt {b : Word} (h : b.toNat + 0x830 < 2 ^ 64) :
    nvCellAddr b = b.toNat + 0x830 := if_pos h

theorem low3_zero_iff (v : Word) : v.extractLsb' 0 3 = 0#3 ↔ v.toNat % 8 = 0 := by
  rw [← BitVec.toNat_inj]; simp [BitVec.extractLsb'_toNat]

theorem masked_low3 (v : Word) : (v &&& ~~~7#64).toNat % 8 = 0 := by
  rw [← low3_zero_iff]
  apply BitVec.eq_of_getLsbD_eq; intro i hi
  interval_cases i <;> simp

/-- R77: with NVBase 8-byte aligned the cell is aligned and lies inside the address space. -/
theorem nvCellAddr_spec {b : Word} (h : b.extractLsb' 0 3 = 0#3) :
    nvCellAddr b % 8 = 0 ∧ nvCellAddr b + 8 ≤ 2 ^ 64 := by
  rw [low3_zero_iff] at h
  unfold nvCellAddr
  split
  · omega
  · have h1 := masked_low3 (Config.wrappedCell b)
    have h2 := (Config.wrappedCell b &&& ~~~7#64).isLt
    omega

/-- Everything a memory access can end in when it answers a next state (R77). -/
theorem memoryAccess_next {verdict : Option Nat} {done : Result}
    (h : memoryAccess s verdict done = .next s') :
    s.inp.nvBase.extractLsb' 0 3 = 0#3 ∧ overlapsProgram s.program s.cell 8 = false
      ∧ verdict = none ∧ done = .next s' := by
  unfold memoryAccess at h
  split at h
  · cases h
  · next h1 =>
    split at h
    · cases h
    · next h2 =>
      split at h
      · cases h
      · exact ⟨by simpa using h1, by simpa using h2, rfl, h⟩

/-- Where a memory access is made. -/
theorem memoryAccess_done {done : Result} (h1 : s.inp.nvBase.extractLsb' 0 3 = 0#3)
    (h2 : overlapsProgram s.program s.cell 8 = false) :
    memoryAccess s none done = done := by
  simp [memoryAccess, h1, h2]

/-! The instructions: every way to a next state. -/

/-- R103: MRS answers a next state through `ReadReg` or `ReadMem` only. -/
theorem execMrs_next (h : execMrs t s = .next s') :
    (mrsAccess s.cfg s.inp = .register
      ∧ s' = (s.afterDirectRead.writeX t s.directReadValue).advancePc)
    ∨ (mrsAccess s.cfg s.inp = .memory ∧ s.inp.nvBase.extractLsb' 0 3 = 0#3
      ∧ overlapsProgram s.program s.cell 8 = false ∧ s.inp.nvReadFault = none
      ∧ s' = (s.writeX t s.readCell).advancePc) := by
  unfold execMrs at h
  split at h
  · cases h
  · cases h
  · next ha =>
    obtain ⟨h1, h2, h3, h4⟩ := memoryAccess_next h
    cases h4
    exact .inr ⟨ha, h1, h2, h3, rfl⟩
  · next ha => cases h; exact .inl ⟨ha, rfl⟩

/-- R103: MSR answers a next state through `WriteReg` or `WriteMem` only. -/
theorem execMsr_next (h : execMsr t s = .next s') :
    (msrAccess s.cfg s.inp = .register ∧ s' = (s.directWrite (s.readX t)).advancePc)
    ∨ (msrAccess s.cfg s.inp = .memory ∧ s.inp.nvBase.extractLsb' 0 3 = 0#3
      ∧ overlapsProgram s.program s.cell 8 = false ∧ s.inp.nvWriteFault = none
      ∧ s' = (s.writeCell (s.readX t)).advancePc) := by
  unfold execMsr at h
  split at h
  · cases h
  · cases h
  · next ha =>
    obtain ⟨h1, h2, h3, h4⟩ := memoryAccess_next h
    cases h4
    exact .inr ⟨ha, h1, h2, h3, rfl⟩
  · next ha => cases h; exact .inl ⟨ha, rfl⟩

/-! A step: every way to a next state. -/

/-- The PE's move answers a next state only by executing the instruction at pc. -/
theorem runPE_next (h : runPE s = .next s') : ∃ i, fetch s = .ok i ∧ exec i s = .next s' := by
  unfold runPE at h
  split at h
  · next i hi => exact ⟨i, hi, h⟩
  · cases h

theorem foreignStore_next {a : Word} {b : Byte} (h : s.foreignStore a b = .next s') :
    overlapsProgram s.program a.toNat 1 = false
      ∧ s' = { s with mem := s.mem.putByte a.toNat b } := by
  unfold State.foreignStore at h
  split at h
  · cases h
  · next ho => cases h; exact ⟨by simpa using ho, rfl⟩

/-- A step answers a next state through one move: the instruction at pc, or one of the five other
moves. -/
theorem step_next (h : step s = .next s') :
    ∃ s0 : State, (s0 = s ∨ ∃ m rest, s.schedule = m :: rest ∧ s0 = { s with schedule := rest })
      ∧ ((∃ i, fetch s0 = .ok i ∧ exec i s0 = .next s')
        ∨ (∃ ev, s' = s0.takeSample ev)
        ∨ s' = s0.syncPoint
        ∨ (∃ kind after, s' = s0.doReset kind after)
        ∨ (∃ after, s' = s0.withContext after)
        ∨ (∃ (a : Word) (b : Byte), overlapsProgram s0.program a.toNat 1 = false
            ∧ s' = { s0 with mem := s0.mem.putByte a.toNat b })) := by
  unfold step runNext at h
  split at h
  · exact ⟨s, .inl rfl, .inl (runPE_next h)⟩
  · next m rest hm =>
    refine ⟨{ s with schedule := rest }, .inr ⟨m, rest, hm, rfl⟩, ?_⟩
    cases m with
    | instruction => exact .inl (runPE_next h)
    | sample ev => cases h; exact .inr (.inl ⟨ev, rfl⟩)
    | syncPoint => cases h; exact .inr (.inr (.inl rfl))
    | reset kind after => cases h; exact .inr (.inr (.inr (.inl ⟨kind, after, rfl⟩)))
    | environment after => cases h; exact .inr (.inr (.inr (.inr (.inl ⟨after, rfl⟩))))
    | store a b =>
      obtain ⟨ho, rfl⟩ := foreignStore_next h
      exact .inr (.inr (.inr (.inr (.inr ⟨a, b, ho, rfl⟩))))

end Sys2Proof.Machine
end

