-- ==== Sys2Proof/Laws/PerInstr.lean ====
section
/-! SUPPORT. Facts about the instruction as text, one lemma per constructor. Family TableRow: the encoded
word has the row's match under its mask (R89, R90; spec/opcode_table.json) and t in bits 4:0. -/

namespace Sys2Proof.Laws.TableRow

/-- The row's match value. -/
def rowMatch : Instr → BitVec 32
  | .mrs _ => 0xD53899A0#32
  | .msr _ => 0xD51899A0#32

/-- The word of i is its row's match OR t, it has the match under the row's mask, and i is well
formed. -/
def Statement (i : Instr) : Prop :=
  encode i = rowMatch i ||| i.operand.setWidth 32 ∧ encode i &&& 0xFFFFFFE0#32 = rowMatch i
    ∧ i.wf = true

theorem table_word (l : BitVec 1) : ∀ t : BitVec 5,
    sysregMoveWord l t = (0xD51899A0#32 ||| l.setWidth 32 <<< 21) ||| t.setWidth 32
      ∧ sysregMoveWord l t &&& 0xFFFFFFE0#32 = 0xD51899A0#32 ||| l.setWidth 32 <<< 21
      ∧ decide (t.toNat ≤ 31) = true := by
  revert l; decide

theorem mrs (t : BitVec 5) : Statement (.mrs t) := table_word 1#1 t

theorem msr (t : BitVec 5) : Statement (.msr t) := table_word 0#1 t

end Sys2Proof.Laws.TableRow
end

