-- ==== Sys2Proof/Tests/Slice0.lean ====
section
/-! SUPPORT. The model's own tests. Every expected result is the spec's: 30_encoding.md, the worked
examples of R104 and R107, and the vectors of 95_test_vectors.md. Then, for each statement of
Certificates/Slice0/Obligations.lean that has hypotheses, a concrete case that meets them all. -/

namespace Sys2Proof.Tests

open Sys2Proof Sys2Proof.Machine

/-! ## Well-formedness -/

theorem test_every_operand_is_wf (i : Instr) : i.wf = true := by
  cases i with
  | mrs t => exact (Laws.TableRow.mrs t).2.2
  | msr t => exact (Laws.TableRow.msr t).2.2

theorem test_program_out_of_order_refused : Program.wf [(4, 0#32), (0, 0#32)] = false := by decide
theorem test_program_overlapping_refused : Program.wf [(0, 0#32), (2, 0#32)] = false := by decide
theorem test_program_past_top_refused : Program.wf [(2 ^ 64 - 2, 0#32)] = false := by decide
theorem test_program_wf : Program.wf [(0x1000, 0xD51899A0#32), (0x1004, 0xD53899A1#32)] = true := by decide
theorem test_multibit_mask_outside_generic_refused :
    Config.wf { resetConfig with multibit := [(0x8#64, 0)] } = false := by decide
theorem test_multibit_mask_wf :
    Config.wf { resetConfig with multibit := [(0x3000#64, 0)] } = true := by decide

/-! ## Encoding: words written out from R88 to R90 and section 2.1 -/

/-- R89: 1101 0101 0011 1000 1001 1001 101t tttt with t = 3. -/
theorem test_mrs_word_bits : decode 0b11010101001110001001100110100011#32 = .ok (.mrs 3#5) := by decide
/-- R90: 1101 0101 0001 1000 1001 1001 101t tttt with t = 30. -/
theorem test_msr_word_bits : decode 0b11010101000110001001100110111110#32 = .ok (.msr 30#5) := by decide
theorem test_mrs_words : [0#5, 1#5, 2#5, 3#5, 4#5, 5#5, 15#5, 16#5, 30#5, 31#5].map (fun t => encode (.mrs t))
    = [0xD53899A0#32, 0xD53899A1#32, 0xD53899A2#32, 0xD53899A3#32, 0xD53899A4#32, 0xD53899A5#32,
       0xD53899AF#32, 0xD53899B0#32, 0xD53899BE#32, 0xD53899BF#32] := by decide
theorem test_msr_words : [0#5, 1#5, 2#5, 3#5, 4#5, 5#5, 15#5, 16#5, 30#5, 31#5].map (fun t => encode (.msr t))
    = [0xD51899A0#32, 0xD51899A1#32, 0xD51899A2#32, 0xD51899A3#32, 0xD51899A4#32, 0xD51899A5#32,
       0xD51899AF#32, 0xD51899B0#32, 0xD51899BE#32, 0xD51899BF#32] := by decide
/-- Section 2.1: the words one field away, which the decoder must refuse by name. -/
theorem test_neighbours_refused :
    [0xD53099A0#32, 0xD53999A0#32, 0xD538A9A0#32, 0xD53898A0#32, 0xD5389980#32, 0xD53899C0#32,
      0x953899A0#32, 0x00000000#32].all (fun w => decide (decode w = .error (.notInThisSpec w))) = true := by
  decide
theorem test_table_rows : decodeTableWord 32 0xD53899A0 = some (.mrs 0#5)
    ∧ decodeTableWord 32 0xD51899A0 = some (.msr 0#5) := by decide

/-! ## The write mask and the direct write (sections "Configuration names" and 2.2) -/

/-- A configuration of 95_test_vectors.md; SpecActive false is given by (true, true). -/
def params (v1p1 v1p2 sve active : Bool) (ev : Word) : Config :=
  { resetConfig with
    featSPEv1p1 := v1p1, featSPEv1p2 := v1p2, featSVE := sve, specSampling := true,
    specAlwaysDiscard := !active, evImpl := ev }

/-- Configuration, WriteMask, and what a write of 0x5555… and of 0xAAAA… leaves. -/
def maskRows : List (Config × Word × Word × Word) :=
[ (params false false false false 0#64, 0x00000000000000A8#64, 0x0000000000000000#64, 0x00000000000000A8#64),
    (params false false false true 0#64, 0x00000000000000AA#64, 0x0000000000000000#64, 0x00000000000000AA#64),
    (params true false false false 0#64, 0x00000000000008A8#64, 0x0000000000000000#64, 0x00000000000008A8#64),
    (params true false false true 0#64, 0x00000000000008AA#64, 0x0000000000000000#64, 0x00000000000008AA#64),
    (params false false true true 0#64, 0x00000000000000AA#64, 0x0000000000000000#64, 0x00000000000000AA#64),
    (params false true false true 0#64, 0x00000000000000EA#64, 0x0000000000000040#64, 0x00000000000000AA#64),
    (params true false true true 0#64, 0x00000000000608AA#64, 0x0000000000040000#64, 0x00000000000208AA#64),
    (params true true true true 0#64, 0x00000000000608EA#64, 0x0000000000040040#64, 0x00000000000208AA#64),
    (params false false false true 0x0001000001003000#64, 0x00010000010030AA#64, 0x0001000001001000#64, 0x00000000000020AA#64),
    (params true true true false 0xFFFFFFFFFFFFFFFF#64, 0xFFFF0000FF06F8E8#64, 0x5555000055045040#64, 0xAAAA0000AA02A8A8#64),
    (params true true true true 0xFFFFFFFFFFFFFFFF#64, 0xFFFF0000FF06F8EA#64, 0x5555000055045040#64, 0xAAAA0000AA02A8AA#64) ]

theorem test_write_masks : maskRows.all (fun r => writeMask r.1 == r.2.1) = true := by decide
theorem test_direct_writes : maskRows.all (fun r =>
    0x5555555555555555#64 &&& writeMask r.1 == r.2.2.1 && 0xAAAAAAAAAAAAAAAA#64 &&& writeMask r.1 == r.2.2.2
      && alwaysRaz &&& writeMask r.1 == 0#64 && 0x28#64 &&& writeMask r.1 == 0x28#64) = true := by decide
/-- Section 2.3: MIN with reg 0xA8 reads 0xA8 or 0xAA; MIN+spec with reg 0xAA reads 0xAA. -/
theorem test_direct_read : regRead (params false false false false 0#64) 0xA8#64 0#1 = 0xA8#64
    ∧ regRead (params false false false false 0#64) 0xA8#64 1#1 = 0xAA#64
    ∧ regRead (params false false false true 0#64) 0xAA#64 1#1 = 0xAA#64 := by decide

/-! ## The access decision (section 2.4, A1 to A39) -/

/-- One row: the direction (true for MSR), the parameters and the inputs. -/
def row (el : EL) (w h e3 : Bool) (sdd : BitVec 1) (prio : Bool) (ns : BitVec 1) (nspb : BitVec 2)
    (e2 : Bool) (fgt hr hw tpms n2 n1 n : BitVec 1) : Bool × Config × Inputs :=
  (w, { resetConfig with haveEL3 := e3, sddEl3Prio := prio },
    { resetInputs with
      el := el, halted := h, sdd := sdd, ns := ns, nspb := nspb, el2Enabled := e2, fgtEn := fgt,
      fgtRead := hr, fgtWrite := hw, tpms := tpms, nv2 := n2, nv1 := n1, nv := n })

/-- The row's outcome is what the pseudocode and the compact form decide, and with FEAT_SPE false it is
`Undefined` (A39). -/
def decides (r : (Bool × Config × Inputs) × Access) : Bool :=
  accessOf r.1.2.1 r.1.2.2 r.1.1 == r.2 && accessCheck r.1.2.1 r.1.2.2 r.1.1 == r.2
    && accessOf { r.1.2.1 with featSPE := false } r.1.2.2 r.1.1 == .undefined

def accessRows1 : List ((Bool × Config × Inputs) × Access) :=
[ (row .el0 false false true 0#1 false 1#1 0b11#2 false 0#1 0#1 0#1 0#1 0#1 0#1 0#1, .undefined),
    (row .el0 true false false 0#1 false 0#1 0b00#2 false 0#1 0#1 0#1 0#1 0#1 0#1 0#1, .undefined),
    (row .el3 false false true 0#1 false 1#1 0b11#2 false 0#1 0#1 0#1 0#1 0#1 0#1 0#1, .register),
    (row .el3 true true true 1#1 true 1#1 0b00#2 true 1#1 1#1 1#1 1#1 1#1 1#1 1#1, .register),
    (row .el1 false false false 0#1 false 0#1 0b00#2 false 0#1 0#1 0#1 0#1 0#1 0#1 0#1, .register),
    (row .el1 false false true 0#1 false 1#1 0b11#2 false 0#1 0#1 0#1 0#1 0#1 0#1 0#1, .register),
    (row .el1 false false true 0#1 false 0#1 0b01#2 false 0#1 0#1 0#1 0#1 0#1 0#1 0#1, .register),
    (row .el1 false false true 0#1 false 1#1 0b01#2 false 0#1 0#1 0#1 0#1 0#1 0#1 0#1, .trap .el3 0x18#6),
    (row .el1 false false true 0#1 false 1#1 0b00#2 false 0#1 0#1 0#1 0#1 0#1 0#1 0#1, .trap .el3 0x18#6),
    (row .el1 false false true 0#1 false 1#1 0b10#2 false 0#1 0#1 0#1 0#1 0#1 0#1 0#1, .trap .el3 0x18#6),
    (row .el1 false false true 0#1 false 0#1 0b11#2 false 0#1 0#1 0#1 0#1 0#1 0#1 0#1, .trap .el3 0x18#6),
    (row .el1 false false true 0#1 false 0#1 0b00#2 false 0#1 0#1 0#1 0#1 0#1 0#1 0#1, .trap .el3 0x18#6),
    (row .el1 false false true 0#1 false 0#1 0b10#2 false 0#1 0#1 0#1 0#1 0#1 0#1 0#1, .trap .el3 0x18#6),
    (row .el1 false false true 0#1 false 1#1 0b11#2 true 0#1 0#1 0#1 1#1 0#1 0#1 0#1, .trap .el2 0x18#6),
    (row .el1 false false true 0#1 false 1#1 0b11#2 false 0#1 0#1 0#1 1#1 0#1 0#1 0#1, .register),
    (row .el1 false false true 0#1 false 1#1 0b11#2 true 1#1 1#1 0#1 0#1 0#1 0#1 0#1, .trap .el2 0x18#6),
    (row .el1 true false true 0#1 false 1#1 0b11#2 true 1#1 1#1 0#1 0#1 0#1 0#1 0#1, .register),
    (row .el1 true false true 0#1 false 1#1 0b11#2 true 1#1 0#1 1#1 0#1 0#1 0#1 0#1, .trap .el2 0x18#6),
    (row .el1 false false true 0#1 false 1#1 0b11#2 true 0#1 1#1 1#1 0#1 0#1 0#1 0#1, .register) ]

def accessRows2 : List ((Bool × Config × Inputs) × Access) :=
[ (row .el1 false false false 0#1 false 0#1 0b00#2 true 0#1 1#1 0#1 0#1 0#1 0#1 0#1, .trap .el2 0x18#6),
    (row .el1 false false true 0#1 false 1#1 0b01#2 true 0#1 0#1 0#1 1#1 0#1 0#1 0#1, .trap .el2 0x18#6),
    (row .el1 false true true 1#1 true 1#1 0b01#2 true 0#1 0#1 0#1 1#1 0#1 0#1 0#1, .undefined),
    (row .el1 false true true 1#1 false 1#1 0b01#2 true 0#1 0#1 0#1 1#1 0#1 0#1 0#1, .trap .el2 0x18#6),
    (row .el1 false true true 1#1 false 1#1 0b01#2 false 0#1 0#1 0#1 0#1 0#1 0#1 0#1, .undefined),
    (row .el1 false true true 0#1 false 1#1 0b01#2 false 0#1 0#1 0#1 0#1 0#1 0#1 0#1, .trap .el3 0x18#6),
    (row .el1 false false true 1#1 false 1#1 0b01#2 false 0#1 0#1 0#1 0#1 0#1 0#1 0#1, .trap .el3 0x18#6),
    (row .el1 false false true 0#1 false 1#1 0b11#2 true 0#1 0#1 0#1 0#1 1#1 0#1 1#1, .memory),
    (row .el1 true false true 0#1 false 1#1 0b11#2 true 0#1 0#1 0#1 0#1 1#1 1#1 1#1, .memory),
    (row .el1 false false true 0#1 false 1#1 0b11#2 true 0#1 0#1 0#1 0#1 1#1 0#1 0#1, .register),
    (row .el1 false false true 0#1 false 1#1 0b11#2 true 0#1 0#1 0#1 0#1 0#1 1#1 1#1, .register),
    (row .el1 false false true 0#1 false 1#1 0b11#2 false 0#1 0#1 0#1 0#1 1#1 0#1 1#1, .register),
    (row .el1 false false true 0#1 false 1#1 0b01#2 true 0#1 0#1 0#1 0#1 1#1 0#1 1#1, .trap .el3 0x18#6),
    (row .el2 false false true 0#1 false 1#1 0b11#2 true 1#1 1#1 1#1 1#1 1#1 1#1 1#1, .register),
    (row .el2 true false true 0#1 false 1#1 0b01#2 true 0#1 0#1 0#1 0#1 0#1 0#1 0#1, .trap .el3 0x18#6),
    (row .el2 true true true 1#1 false 1#1 0b01#2 true 0#1 0#1 0#1 0#1 0#1 0#1 0#1, .undefined),
    (row .el2 true true true 1#1 true 0#1 0b11#2 true 0#1 0#1 0#1 0#1 0#1 0#1 0#1, .undefined),
    (row .el2 false true false 1#1 true 1#1 0b00#2 true 1#1 1#1 1#1 1#1 1#1 1#1 1#1, .register),
    (row .el2 false true true 1#1 true 0#1 0b01#2 true 0#1 0#1 0#1 0#1 0#1 0#1 0#1, .register) ]

theorem test_access_rows_A1_to_A19 : accessRows1.all decides = true := by decide
theorem test_access_rows_A20_to_A38 : accessRows2.all decides = true := by decide

/-! ## One step of each instruction -/

/-- Inputs that let EL1 and EL2 reach the register (A6, A33). -/
def inputsAt (el : EL) : Inputs := { resetInputs with el := el, ns := 1#1, nspb := 0b11#2 }

/-- The inputs of section 2.5. -/
def inputsNv : Inputs :=
  { inputsAt .el1 with el2Enabled := true, nv2 := 1#1, nv := 1#1, nvBase := 0x80000000#64 }

/-- Configuration MIN+spec. -/
def minSpec : Config := params false false false true 0#64

/-- X0 all ones, reg 0x28, pc 0x1000. -/
def start (c : Config) (i : Inputs) : State :=
  { State.reset with
    cfg := c, inp := i, reg := 0x28#64, pc := 0x1000#64,
    x := (Vector.replicate 31 0#64).set 0 0xFFFFFFFFFFFFFFFF#64 }

def after (r : Result) (p : State → Bool) : Bool :=
  match r with
  | .next s => p s
  | _ => false

/-- R104's worked example, reg 0x28 read at EL3 with SpecActive true (so WriteMask is 0xAA by R52, where the
example says 0xA8; the values are the example's). -/
theorem test_mrs_register : after (exec (.mrs 3#5) (start minSpec (inputsAt .el3)))
    (fun s => s.readX 3#5 == 0x28#64 && s.reg == 0x28#64 && s.pc == 0x1004#64) = true := by decide
/-- M3: the cell holds 0x0000FFFF00F90715 and X1 takes it unmasked. -/
theorem test_mrs_memory : after (exec (.mrs 1#5)
      { start resetConfig inputsNv with
        mem := Memory.writeWord [] false 0x80000830 0x0000FFFF00F90715#64 })
    (fun s => s.readX 1#5 == 0x0000FFFF00F90715#64 && s.reg == 0x28#64 && s.pc == 0x1004#64) = true := by
  decide
/-- R107's worked example: EL2, HAVE_EL3 false, X0 all ones, WriteMask 0xA8. -/
theorem test_msr_register : after (exec (.msr 0#5)
      (start { resetConfig with haveEL3 := false } { resetInputs with el := .el2 }))
    (fun s => s.reg == 0xA8#64 && s.readX 0#5 == 0xFFFFFFFFFFFFFFFF#64 && s.pc == 0x1004#64) = true := by
  decide
/-- Section 2.5: with X0 = 0x0102030405060708 the bytes from 0x80000830 are 08 07 06 05 04 03 02 01. -/
theorem test_msr_memory : after (exec (.msr 0#5)
      { start resetConfig inputsNv with x := (Vector.replicate 31 0#64).set 0 0x0102030405060708#64 })
    (fun s => s.mem == [(0x80000830, 8#8), (0x80000831, 7#8), (0x80000832, 6#8), (0x80000833, 5#8),
        (0x80000834, 4#8), (0x80000835, 3#8), (0x80000836, 2#8), (0x80000837, 1#8)]
      && s.reg == 0x28#64 && s.mem.wf) = true := by decide

/-- From reset, each row of the table runs as the first instruction. -/
theorem test_first_step_from_reset :
    after (step (State.reset.withFetchWord 32 0xD53899A0)) (fun s => s.pc == 4#64) = true
    ∧ after (step (State.reset.withFetchWord 32 0xD51899A0)) (fun s => s.reg == 0#64 && s.pc == 4#64) = true := by
  decide

/-! ## The event filter (section 2.6) and the syndrome (section 2.8) -/

/-- F1 to F14, in configuration MAX: reg, FE, ev, EventFilterPass. -/
def filterRows : List (Word × BitVec 1 × Word × Bool) :=
  [ (0x28#64, 1#1, 0x28#64, true), (0x28#64, 1#1, 0x08#64, false), (0x28#64, 1#1, 0x20#64, false),
    (0x28#64, 1#1, 0x2A#64, true), (0x28#64, 1#1, 0#64, false), (0x28#64, 0#1, 0#64, true),
    (0#64, 1#1, 0#64, true), (0x80#64, 1#1, 0x80#64, true), (0x80#64, 1#1, 0x7F#64, false),
    (0xA8#64, 1#1, 0xFFFFFFFFFFFFFFFF#64, true), (0x608EA#64, 1#1, 0x608EA#64, true),
    (0x608EA#64, 1#1, 0x408EA#64, false),
    (0x8000000000000000#64, 1#1, 0x7FFFFFFFFFFFFFFF#64, false),
    (0x8000000000000000#64, 1#1, 0x8000000000000000#64, true) ]

theorem test_event_filter : filterRows.all (fun r =>
    eventFilterPass (params true true true true 0xFFFFFFFFFFFFFFFF#64) r.1 r.2.1 r.2.2.1 == r.2.2.2) = true := by
  decide
/-- F15: bit 1 in MIN and in MIN+spec. -/
theorem test_bit_one_filters_only_when_active :
    eventFilterPass resetConfig 0xA8#64 1#1 0xA8#64 = true
    ∧ eventFilterPass minSpec 0xAA#64 1#1 0xA8#64 = false := by decide
/-- F16: events 13:12 as one field; without event 5 the sample fails whatever the filter function is, and
with it the filter function decides. -/
theorem test_multibit_event :
    (let c := { params false false false true 0x3000#64 with multibit := [(0x3000#64, 7)] }
     eventFilterPass c 0x1028#64 1#1 0x0008#64 = false
     ∧ eventFilterPass c 0x1028#64 1#1 0x0028#64 = Config.multibitFilter 7 0x1000#64 0#64) := by
  constructor
  · decide
  · simp [eventFilterPass, effectiveFilter, multibitMask, writeMask, params, resetConfig, specActive]
theorem test_syndromes : trapSyndrome 0x18#6 true 0#5 = 0x623A2413#32 ∧ trapSyndrome 0x18#6 false 0#5 = 0x623A2412#32
    ∧ trapSyndrome 0x18#6 true 5#5 = 0x623A24B3#32 ∧ trapSyndrome 0x18#6 false 5#5 = 0x623A24B2#32
    ∧ trapSyndrome 0x18#6 true 31#5 = 0x623A27F3#32 ∧ trapSyndrome 0x18#6 false 31#5 = 0x623A27F2#32 := by decide

/-! ## Witnesses: a concrete case that meets all hypotheses of a statement -/

/-- A state whose next move is m. -/
def moving (c : Config) (i : Inputs) (m : Move) : State := { start c i with schedule := [m] }

/-- A state whose program has the instruction i at pc. -/
def running (c : Config) (j : Inputs) (i : Instr) : State :=
  (start c j).withFetchWord 32 (encode i).toNat

/-- What the environment supplies after a reset in these tests. -/
def someContext (el : EL) : Context :=
  { pc := 0x7000#64, x := Vector.replicate 31 1#64, inp := inputsAt el }

theorem start_inv : (start minSpec (inputsAt .el3)).Inv := by
  refine ⟨⟨by decide, fun h => absurd h (by decide)⟩, ?_, fun h => absurd h (by decide), by decide⟩
  intro v hv
  exact absurd hv (List.not_mem_nil)

theorem running_inv : (running minSpec (inputsAt .el3) (.msr 0#5)).Inv := start_inv

theorem witness_DecoderKnowsExactlyTwoPatterns :
    let s := (start minSpec (inputsAt .el3)).withFetchWord 32 0xD53899C0
    s.schedule = [] ∧ tableFind s.program s.pc.toNat = some 0xD53899C0#32
      ∧ 0xD53899C0#32 &&& 0xFFFFFFE0#32 ≠ 0xD53899A0#32
      ∧ 0xD53899C0#32 &&& 0xFFFFFFE0#32 ≠ 0xD51899A0#32 := by decide

theorem witness_DecodeEncodeAgree : decode 0xD53899BF#32 = .ok (.mrs 31#5) := by decide

theorem witness_StepRunsDecodedInstruction :
    let s := running minSpec (inputsAt .el3) (.mrs 31#5)
    tableFind s.program s.pc.toNat = some 0xD53899BF#32 ∧ decode 0xD53899BF#32 = .ok (.mrs 31#5)
      ∧ s.schedule = [] := by decide
theorem witness_StepRunsDecodedInstruction_scheduled :
    let s := { running minSpec (inputsAt .el3) (.msr 0#5) with schedule := [.instruction, .syncPoint] }
    tableFind s.program s.pc.toNat = some 0xD51899A0#32 ∧ decode 0xD51899A0#32 = .ok (.msr 0#5)
      ∧ s.schedule = .instruction :: [.syncPoint] := by decide

theorem witness_EveryStepKeepsInvariant :
    ∃ s s' : State, s.Inv ∧ step s = .next s' ∧ s'.reg ≠ s.reg :=
  ⟨running minSpec (inputsAt .el3) (.msr 0#5), _, running_inv, rfl, by decide⟩

theorem witness_ParametersAndProgramAreFixed :
    ∃ s s' : State, step s = .next s' ∧ s'.mem ≠ s.mem :=
  ⟨running minSpec inputsNv (.msr 0#5), _, rfl, by decide⟩

theorem witness_OnlyMsrAndResetWriteTheRegister :
    ∃ s s' : State, step s = .next s' ∧ s'.reg ≠ s.reg :=
  ⟨running minSpec (inputsAt .el3) (.msr 0#5), _, rfl, by decide⟩

theorem witness_OnlyTheEnvironmentChangesInputs :
    ∃ s s' : State, step s = .next s' ∧ s'.inp ≠ s.inp :=
  ⟨moving minSpec (inputsAt .el1) (.environment (someContext .el2)), _, rfl, by decide⟩

theorem witness_DirectReadBitByBit : (start minSpec (inputsAt .el3)).Inv ∧ 63 < 64 :=
  ⟨start_inv, by decide⟩

theorem witness_MrsReadsTheRegister :
    let s := start minSpec { inputsAt .el1 with el2Enabled := true }
    s.cfg.featSPE = true ∧ s.inp.el ≠ .el0 ∧ controlsPermit s.cfg s.inp false
      ∧ ¬(s.inp.el = .el1 ∧ nvRedirect s.inp = true) := by unfold controlsPermit; decide
theorem witness_MrsReadsTheRegister_el3 :
    let s := start minSpec { inputsAt .el3 with tpms := 1#1, el2Enabled := true, nspb := 0#2 }
    s.cfg.featSPE = true ∧ s.inp.el ≠ .el0 ∧ s.inp.el = .el3 := by decide

theorem witness_MsrWritesTheRegister :
    let s := start minSpec { inputsAt .el2 with tpms := 1#1, el2Enabled := true, ns := 0#1, nspb := 0b01#2 }
    s.cfg.featSPE = true ∧ s.inp.el ≠ .el0 ∧ controlsPermit s.cfg s.inp true
      ∧ ¬(s.inp.el = .el1 ∧ nvRedirect s.inp = true) := by unfold controlsPermit; decide
theorem witness_MsrWritesTheRegister_el3 :
    let s := start minSpec (inputsAt .el3)
    s.cfg.featSPE = true ∧ s.inp.el ≠ .el0 ∧ s.inp.el = .el3 := by decide

theorem witness_El3AlwaysReachesTheRegister :
    let s := start minSpec { inputsAt .el3 with halted := true, sdd := 1#1 }
    s.cfg.featSPE = true ∧ s.inp.el = .el3 := by decide

theorem witness_ReadAfterWriteReturnsMaskedValue :
    ∃ (s s1 s2 : State), msrAccess s.cfg s.inp = .register ∧ mrsAccess s.cfg s.inp = .register
      ∧ exec (.msr 0#5) s = .next s1 ∧ exec (.mrs 30#5) s1 = .next s2 ∧ (30#5 : BitVec 5) ≠ 31#5
      ∧ specActive s.cfg = true :=
  ⟨start minSpec (inputsAt .el2), _, _, by decide, by decide, rfl, rfl, by decide, by decide⟩

theorem witness_ConsecutiveReadsDifferOnlyInBitOne :
    ∃ (s s1 s2 : State), s.Inv ∧ mrsAccess s.cfg s.inp = .register ∧ exec (.mrs 0#5) s = .next s1
      ∧ exec (.mrs 30#5) s1 = .next s2 ∧ (0#5 : BitVec 5) ≠ 31#5 ∧ (30#5 : BitVec 5) ≠ 31#5
      ∧ specActive s.cfg = true :=
  ⟨start minSpec (inputsAt .el3), _, _, start_inv, by decide, rfl, rfl, by decide, by decide, by decide⟩

theorem witness_MrsReadsTheCell :
    let s := start minSpec inputsNv
    mrsAccess s.cfg s.inp = .memory ∧ s.cellReachable false := by unfold State.cellReachable; decide

theorem witness_MsrWritesTheCell :
    let s := start minSpec { inputsNv with nvBase := 0xFFFFFFFFFFFFF7C8#64 }
    msrAccess s.cfg s.inp = .memory ∧ s.cellReachable true ∧ s.cell + 8 = 2 ^ 64 := by
  unfold State.cellReachable; decide

theorem witness_CellIsLittleEndianByDefault :
    ∃ (s s' : State), s.cfg.nvmemBigEndian = false ∧ msrAccess s.cfg s.inp = .memory
      ∧ exec (.msr 0#5) s = .next s' ∧ s.inp.nvBase.toNat + 0x830 < 2 ^ 64 :=
  ⟨start minSpec inputsNv, _, by decide, by decide, rfl, by decide⟩

theorem witness_CellReadAfterWriteIsUnmasked :
    ∃ (s s1 s2 : State), msrAccess s.cfg s.inp = .memory ∧ mrsAccess s.cfg s.inp = .memory
      ∧ exec (.msr 0#5) s = .next s1 ∧ exec (.mrs 1#5) s1 = .next s2 ∧ (1#5 : BitVec 5) ≠ 31#5 :=
  ⟨start minSpec inputsNv, _, _, by decide, by decide, rfl, rfl, by decide⟩

theorem witness_RedirectedWriteIsNotSeenByTheRegister :
    ∃ (s s1 s2 : State), msrAccess s.cfg s.inp = .memory ∧ exec (.msr 0#5) s = .next s1
      ∧ mrsAccess s.cfg (inputsAt .el2) = .register
      ∧ exec (.mrs 2#5) { s1 with inp := inputsAt .el2 } = .next s2 ∧ (2#5 : BitVec 5) ≠ 31#5 :=
  ⟨start minSpec inputsNv, _, _, by decide, rfl, by decide, rfl, by decide⟩

theorem witness_MemoryPathStops_misaligned :
    let s := start minSpec { inputsNv with nvBase := 0x80000004#64 }
    accessOf s.cfg s.inp true = .memory ∧ s.inp.nvBase.extractLsb' 0 3 ≠ 0#3 := by decide
theorem witness_MemoryPathStops_overlap :
    let s := { start minSpec inputsNv with program := [(0x80000837, 0#32)] }
    accessOf s.cfg s.inp false = .memory ∧ s.inp.nvBase.extractLsb' 0 3 = 0#3
      ∧ overlapsProgram s.program s.cell 8 = true := by decide
theorem witness_MemoryPathStops_fault :
    let s := start minSpec { inputsNv with nvReadFault := some 5 }
    accessOf s.cfg s.inp false = .memory ∧ s.inp.nvBase.extractLsb' 0 3 = 0#3
      ∧ overlapsProgram s.program s.cell 8 = false ∧ s.inp.nvReadFault = some 5 := by decide

theorem witness_MrsFrame : ∃ s s' : State, exec (.mrs 31#5) s = .next s' :=
  ⟨start minSpec (inputsAt .el3), _, rfl⟩
theorem witness_MsrFrame_register :
    ∃ s s' : State, exec (.msr 31#5) s = .next s' ∧ msrAccess s.cfg s.inp = .register :=
  ⟨start minSpec (inputsAt .el3), _, rfl, by decide⟩
theorem witness_MsrFrame_memory :
    ∃ s s' : State, exec (.msr 0#5) s = .next s' ∧ msrAccess s.cfg s.inp = .memory
      ∧ s.outsideCell 0x8000082F ∧ s.outsideCell 0x80000838 :=
  ⟨start minSpec inputsNv, _, rfl, by decide, by unfold State.outsideCell; decide,
    by unfold State.outsideCell; decide⟩

theorem witness_AccessCheckEqualsPseudocode :
    resetConfig.haveEL3 = true ∧ (inputsAt .el1).ns = 1#1 ∧ resetInputs.ns = 0#1
      ∧ ({ resetConfig with haveEL3 := false } : Config).haveEL3 = false := by decide

theorem witness_AbsentRegisterIsUndefined :
    (start { minSpec with featSPE := false } (inputsAt .el3)).cfg.featSPE = false := by decide
theorem witness_El0IsUndefined : (start minSpec (inputsAt .el0)).inp.el = .el0 := by decide

/-- A22: EL1, halted, SDD 1, SDD_EL3_PRIO true. A24: the same with it false and no EL2 trap. -/
def haltedMismatch (el : EL) : Inputs :=
  { inputsAt el with halted := true, sdd := 1#1, nspb := 0b01#2 }

theorem witness_MrsUndefinedExactlyWhen :
    exec (.mrs 5#5) (start { minSpec with sddEl3Prio := true }
      { haltedMismatch .el1 with el2Enabled := true, tpms := 1#1 }) = .fault .undefined
    ∧ exec (.mrs 5#5) (start minSpec (haltedMismatch .el1)) = .fault .undefined
    ∧ (start minSpec (inputsAt .el3)).inp.el = .el3 := ⟨rfl, rfl, rfl⟩
theorem witness_MsrUndefinedExactlyWhen :
    exec (.msr 5#5) (start minSpec (haltedMismatch .el2)) = .fault .undefined
    ∧ (start minSpec (inputsAt .el3)).inp.el = .el3 := ⟨rfl, rfl⟩

theorem witness_TrapToEl2ExactlyWhen :
    exec (sysregMove false 5#5) (start minSpec { inputsAt .el1 with el2Enabled := true, tpms := 1#1 })
      = .fault (.systemAccessTrap .el2 0x18#6 true 5#5)
    ∧ exec (sysregMove true 5#5)
        (start minSpec { inputsAt .el1 with el2Enabled := true, fgtEn := 1#1, fgtWrite := 1#1 })
      = .fault (.systemAccessTrap .el2 0x18#6 false 5#5) := ⟨rfl, rfl⟩
theorem witness_TrapToEl3ExactlyWhen :
    exec (sysregMove true 3#5) (start minSpec { inputsAt .el2 with nspb := 0b01#2 })
      = .fault (.systemAccessTrap .el3 0x18#6 false 3#5)
    ∧ exec (sysregMove false 3#5) (start minSpec { inputsAt .el1 with ns := 0#1 })
      = .fault (.systemAccessTrap .el3 0x18#6 true 3#5) := ⟨rfl, rfl⟩
theorem witness_TrapCarriesItsInstruction :
    exec (sysregMove false 5#5) (start minSpec { inputsAt .el1 with nspb := 0b10#2 })
      = .fault (.systemAccessTrap .el3 0x18#6 true 5#5) := rfl

/-- A22 against A23. -/
theorem witness_SddPriorityDecidesOneCase :
    let i := { haltedMismatch .el1 with el2Enabled := true, tpms := 1#1 }
    accessOf { minSpec with sddEl3Prio := true } i false
      ≠ accessOf { minSpec with sddEl3Prio := false } i false := by decide

theorem witness_El2IgnoresEl2Controls :
    let i := inputsAt .el2
    let j := { inputsAt .el2 with el2Enabled := true, tpms := 1#1, nv2 := 1#1, nv := 1#1, fgtRead := 1#1 }
    i.el = .el2 ∧ j.el = .el2 ∧ j.halted = i.halted ∧ j.sdd = i.sdd ∧ j.ns = i.ns ∧ j.nspb = i.nspb
      ∧ j ≠ i := by decide
theorem witness_MrsAndMsrDecideAlike :
    let i := { inputsAt .el1 with el2Enabled := true, fgtEn := 1#1, fgtRead := 1#1, fgtWrite := 1#1 }
    i.fgtRead = i.fgtWrite ∧ mrsAccess minSpec i = .trap .el2 0x18#6 := by decide
theorem witness_GuardedInputsDoNotMatter :
    ({ minSpec with haveEL3 := false } : Config).haveEL3 = false ∧ (inputsAt .el1).el2Enabled = false := by
  decide
theorem witness_OwnershipBarsLowerLevels :
    (inputsAt .el1).el = .el1 ∧ minSpec.haveEL3 = true ∧ (inputsAt .el1).ns = 1#1
      ∧ resetInputs.ns = 0#1 ∧ resetInputs.nspb ≠ 0b01#2
      ∧ ({ inputsAt .el2 with nspb := 0b10#2 } : Inputs).nspb = 0b10#2
      ∧ (0b10#2 : BitVec 2) ≠ 0b11#2
      ∧ minSpec.featSPE = true ∧ ({ minSpec with haveEL3 := false } : Config).haveEL3 = false
      ∧ (inputsAt .el2).el = .el2 := by decide
/-- Each of the four outcomes of a running PE occurs. -/
theorem witness_DebugStateOnlyReplacesTraps :
    accessOf minSpec { inputsAt .el2 with halted := false } true = .register
    ∧ accessOf minSpec { inputsNv with halted := false } true = .memory
    ∧ accessOf minSpec { inputsAt .el0 with halted := false } true = .undefined
    ∧ accessOf minSpec { haltedMismatch .el1 with halted := false } true = .trap .el3 0x18#6
    ∧ accessOf minSpec { haltedMismatch .el1 with halted := false, el2Enabled := true, tpms := 1#1 } true
        = .trap .el2 0x18#6 := by decide

theorem witness_StopsRevealNoContents :
    let s1 := start minSpec (inputsAt .el0)
    let s2 := { start minSpec (inputsAt .el0) with reg := 0xA8#64, mem := [(0, 1#8)] }
    s1.cfg = s2.cfg ∧ s1.inp = s2.inp ∧ s1.program = s2.program ∧ s1 ≠ s2 := by decide

theorem witness_EventFilterBitByBit :
    bitIsRw minSpec 5 = true ∧ (0x28#64).getLsbD 5 = true
      ∧ (∀ e ∈ minSpec.multibit, e.1.getLsbD 5 = false) := by decide
theorem witness_OnlyWritableBitsFilter :
    0xFF#64 &&& writeMask minSpec = 0xAA#64 &&& writeMask minSpec ∧ specActive resetConfig = false
      ∧ (start minSpec (inputsAt .el3)).Inv :=
  ⟨by decide, by decide, start_inv⟩

/-- F2 with event 5 absent. -/
theorem witness_SampleWithoutRequiredEventIsDropped :
    ∃ s s' : State, s.schedule = [.sample 0x08#64] ∧ s.cfg.featSPE = true ∧ s.inp.fe = 1#1 ∧ s.window = []
      ∧ bitIsRw s.cfg 5 = true ∧ (∀ e ∈ s.cfg.multibit, e.1.getLsbD 5 = false)
      ∧ s.reg.getLsbD 5 = true ∧ (0x08#64).getLsbD 5 = false ∧ step s = .next s' :=
  ⟨moving minSpec { inputsAt .el1 with fe := 1#1 } (.sample 0x08#64), _, by decide, by decide, by decide,
    by decide, by decide, by decide, by decide, by decide, rfl⟩
theorem witness_SampleUsesOldOrNewValue :
    let s := { moving minSpec (inputsAt .el1) (.sample 0#64) with window := [0#64] }
    s.schedule = .sample 0#64 :: [] ∧ s.cfg.featSPE = true ∧ s.window ≠ [] := by decide
theorem witness_SampleUsesOldOrNewValue_closed :
    let s := moving minSpec (inputsAt .el1) (.sample 0#64)
    s.schedule = .sample 0#64 :: [] ∧ s.cfg.featSPE = true ∧ s.window = [] := by decide
theorem witness_WindowOpensAtMsrAndClosesAtSyncPoint :
    (∃ s s' : State, msrAccess s.cfg s.inp = .register ∧ exec (.msr 0#5) s = .next s')
    ∧ (moving minSpec (inputsAt .el1) .syncPoint).schedule = .syncPoint :: [] :=
  ⟨⟨start minSpec (inputsAt .el3), _, by decide, rfl⟩, rfl⟩

theorem witness_ResetDrawsTheRegister :
    let s := moving minSpec (inputsAt .el1) (.reset .warm (someContext .el3))
    s.schedule = .reset .warm (someContext .el3) :: [] ∧ s.cfg.featSPE = true
      ∧ bitIsRw s.cfg 0 = false := by decide
theorem witness_FirstReadAfterResetShowsTheDraw :
    ∃ s s1 s2 : State, s.schedule = .reset .cold (someContext .el3) :: [] ∧ s.cfg.featSPE = true
      ∧ (someContext .el3).inp.el = .el3 ∧ step s = .next s1 ∧ exec (.mrs 1#5) s1 = .next s2
      ∧ (1#5 : BitVec 5) ≠ 31#5 :=
  ⟨moving minSpec (inputsAt .el1) (.reset .cold (someContext .el3)), _, _, rfl, by decide, by decide, rfl,
    rfl, by decide⟩
theorem witness_EnvironmentMovesFrame :
    (let s := { moving minSpec (inputsAt .el1) (.store 0x1003#64 7#8) with program := [(0x1000, 0#32)] }
     s.schedule = .store 0x1003#64 7#8 :: [] ∧ overlapsProgram s.program (0x1003#64).toNat 1 = true)
    ∧ (let s := { moving minSpec (inputsAt .el1) (.store 0x1004#64 7#8) with program := [(0x1000, 0#32)] }
       s.schedule = .store 0x1004#64 7#8 :: [] ∧ overlapsProgram s.program (0x1004#64).toNat 1 = false)
    ∧ (moving minSpec (inputsAt .el1) (.environment (someContext .el2))).schedule
        = .environment (someContext .el2) :: [] := by decide

end Sys2Proof.Tests
end

section
/-! Proofs, part 1: the bits of the register. One equation for a bit of the write mask and one for a
bit of a direct read; the statements about masks and reads follow from them. -/

namespace Sys2Proof.Machine

theorem word_eq_zero_iff_bits (v : Word) : v = 0#64 ↔ ∀ x < 64, v.getLsbD x = false := by
  constructor
  · rintro rfl x _
    exact BitVec.getLsbD_zero
  · intro h
    exact BitVec.eq_of_getLsbD_eq fun x hx => by rw [h x hx, BitVec.getLsbD_zero]

/-- A bit of the part of a mask that a parameter switches on. -/
theorem getLsbD_gated (p : Bool) (m : Word) (x : Nat) :
    (if p then m else 0#64).getLsbD x = (p && m.getLsbD x) := by
  cases p <;> simp

/-- Settles O12: each constant is evaluated at its 64 bits. -/
theorem constantMasksPartitionTheRegister : Obligations.ConstantMasksPartitionTheRegister := by
  unfold Obligations.ConstantMasksPartitionTheRegister
  decide

/-- Settles O13: with each term of the formula read at bit x, the two sides are compared bit by bit. -/
theorem writeMaskMatchesFieldMap : Obligations.WriteMaskMatchesFieldMap := by
  intro c x hx
  simp only [writeMask, BitVec.getLsbD_or, BitVec.getLsbD_and, getLsbD_gated]
  interval_cases x <;> simp [bitIsRw]

/-- R52 and R33 as a rewriting rule. -/
theorem writeMask_getLsbD (c : Config) {x : Nat} (hx : x < 64) :
    (writeMask c).getLsbD x = bitIsRw c x :=
  writeMaskMatchesFieldMap c x hx

theorem bitIsRw_one (c : Config) : bitIsRw c 1 = specActive c := rfl

/-- The field map has no R/W bit among those R34 lists as always RAZ. -/
theorem bitIsRw_of_alwaysRaz (c : Config) {x : Nat} (hx : x < 64)
    (h : alwaysRaz.getLsbD x = true) : bitIsRw c x = false := by
  have hlist := (constantMasksPartitionTheRegister.1 x hx).1 h
  rcases hlist with h | h | rfl | h | rfl | rfl | rfl
  · rw [bitIsRw, if_neg (by omega), if_pos h]
  · rw [bitIsRw, if_neg (by omega), if_neg (by omega), if_neg (by omega), if_pos h]
  · rfl
  · obtain ⟨hlo, hhi⟩ := h
    interval_cases x <;> rfl
  all_goals rfl

theorem writeMask_and_alwaysRaz (c : Config) : writeMask c &&& alwaysRaz = 0#64 := by
  refine (word_eq_zero_iff_bits _).2 fun x hx => ?_
  rw [BitVec.getLsbD_and, writeMask_getLsbD c hx]
  cases hraz : alwaysRaz.getLsbD x with
  | false => rw [Bool.and_false]
  | true => rw [bitIsRw_of_alwaysRaz c hx hraz, Bool.false_and]

/-- A value inside WriteMask shows nothing in an always-RAZ bit. -/
theorem and_alwaysRaz_of_masked {c : Config} {v : Word} (h : v &&& writeMask c = v) :
    v &&& alwaysRaz = 0#64 := by
  rw [← h, BitVec.and_assoc, writeMask_and_alwaysRaz, BitVec.and_zero]

/-- A value that shares no bit with a mask lies inside the mask's complement. -/
theorem and_not_of_disjoint {v m : Word} (h : v &&& m = 0#64) : v &&& ~~~m = v := by
  refine BitVec.eq_of_getLsbD_eq fun x hx => ?_
  have hbit := (word_eq_zero_iff_bits _).1 h x hx
  rw [BitVec.getLsbD_and] at hbit
  cases hv : v.getLsbD x with
  | false => simp [hv]
  | true =>
    have hm : m.getLsbD x = false := by simpa [hv] using hbit
    simp only [BitVec.getLsbD_and, BitVec.getLsbD_not, hv, hm, hx, decide_true, Bool.not_false,
      Bool.and_true]

/-- R34, R52: the bits that are R/W in every implementation are in every write mask. -/
theorem writeMask_and_fixedRw (c : Config) : writeMask c &&& fixedRw = fixedRw := by
  refine BitVec.eq_of_getLsbD_eq fun x hx => ?_
  rw [BitVec.getLsbD_and, writeMask_getLsbD c hx]
  cases hfix : fixedRw.getLsbD x with
  | false => rw [Bool.and_false]
  | true =>
    obtain rfl | rfl | rfl := (constantMasksPartitionTheRegister.2.2.1 x hx).1 hfix <;> rfl

/-- The configuration with every optional field of R33 present. -/
def everyFieldConfig : Config :=
  { resetConfig with
    featSPEv1p1 := true, featSPEv1p2 := true, featSVE := true, specSampling := true,
    evImpl := 0xFFFFFFFFFFFFFFFF#64 }

/-- Settles O14: the bounds are the always-RAZ bits and the bits R/W in every implementation; the reset
configuration attains the lower one and the configuration with every field the upper one. -/
theorem writeMaskBounds : Obligations.WriteMaskBounds := by
  refine ⟨fun c => ⟨writeMask_and_alwaysRaz c, writeMask_and_fixedRw c, ?_⟩,
    ⟨resetConfig, by decide⟩, ⟨everyFieldConfig, by decide⟩, by decide⟩
  exact and_not_of_disjoint (writeMask_and_alwaysRaz c)

/-! What the register can hold (R53, R57). -/

/-- Reading `v &&& ~~~m = 0` as "v lies inside m". -/
theorem and_eq_self_of_and_not {v m : Word} (h : v &&& ~~~m = 0#64) : v &&& m = v := by
  simpa using and_not_of_disjoint h

theorem holdable.masked {c : Config} {v : Word} (h : holdable c v) : v &&& writeMask c = v :=
  and_eq_self_of_and_not h.1

theorem holdable_masked {c : Config} (hpresent : c.featSPE = true) (v : Word) :
    holdable c (v &&& writeMask c) :=
  ⟨masked_holdable v _, fun habsent => by simp [hpresent] at habsent⟩

theorem holdable_resetReg (c : Config) (draw : Word) : holdable c (resetReg c draw) := by
  cases hpresent : c.featSPE with
  | true => simpa [resetReg, hpresent] using holdable_masked hpresent draw
  | false => simp [holdable, resetReg, hpresent]

/-- A bit of a masked value: the value's own where the field is R/W, else 0. -/
theorem masked_getLsbD (c : Config) (v : Word) {x : Nat} (hx : x < 64) :
    (v &&& writeMask c).getLsbD x = (v.getLsbD x && bitIsRw c x) := by
  rw [BitVec.getLsbD_and, writeMask_getLsbD c hx]

/-! A direct read (R54). -/

/-- R54: a bit of a direct read, for any register value. -/
theorem regRead_getLsbD (c : Config) (v : Word) (b : BitVec 1) {x : Nat} (hx : x < 64) :
    (regRead c v b).getLsbD x
      = (v.getLsbD x || (!specActive c && (decide (x = 1) && b.getLsbD 0))) := by
  cases hact : specActive c with
  | true => simp [regRead_of_active hact]
  | false =>
    by_cases h1 : x = 1
    · subst h1
      simp [regRead, hact]
    · rcases Nat.eq_zero_or_pos x with rfl | hpos
      · simp [regRead, hact]
      · have hnone : b.getLsbD (x - 1) = false := BitVec.getLsbD_of_ge b _ (by omega)
        simp [regRead, hact, h1, hnone]

/-- R54, R33: a direct read of a masked value, by the field map's column of conditions. -/
theorem regRead_masked_getLsbD (c : Config) (v : Word) (b : BitVec 1) {x : Nat} (hx : x < 64) :
    (regRead c (v &&& writeMask c) b).getLsbD x =
      if bitIsRw c x then v.getLsbD x else if x = 1 then b.getLsbD 0 else false := by
  rw [regRead_getLsbD c _ b hx, masked_getLsbD c v hx]
  by_cases h1 : x = 1
  · subst h1
    cases hact : specActive c <;> simp [bitIsRw_one, hact]
  · cases hrw : bitIsRw c x <;> simp [h1]

/-- Settles O15: under the invariant the register is its own masked value. -/
theorem directReadBitByBit : Obligations.DirectReadBitByBit := by
  intro s b x ⟨hreg, _⟩ hx
  have hread := regRead_masked_getLsbD s.cfg s.reg b hx
  rwa [hreg.masked] at hread

/-- R54: outside bit 1 a direct read shows the register. -/
theorem regRead_outside_bit_one (c : Config) (v : Word) (b : BitVec 1) :
    regRead c v b &&& ~~~2#64 = v &&& ~~~2#64 := by
  refine BitVec.eq_of_getLsbD_eq fun x hx => ?_
  rw [BitVec.getLsbD_and, BitVec.getLsbD_and, regRead_getLsbD c v b hx]
  by_cases h1 : x = 1
  · subst h1
    simp
  · simp [h1]

/-- R54, R34: a direct read of a holdable value is 0 in every always-RAZ bit. -/
theorem regRead_and_alwaysRaz {c : Config} {v : Word} (h : holdable c v) (b : BitVec 1) :
    regRead c v b &&& alwaysRaz = 0#64 := by
  have hraz : alwaysRaz = ~~~2#64 &&& alwaysRaz := by decide
  rw [hraz, ← BitVec.and_assoc, regRead_outside_bit_one, BitVec.and_assoc, ← hraz,
    and_alwaysRaz_of_masked h.masked]

end Sys2Proof.Machine
end

section
/-! Proofs, part 2: one step is one move. With the next move and the state without it named, a step is
the move's own function, and a step lemma is a case split on `Move`. -/

namespace Sys2Proof.Machine

variable {s s' : State} {t : BitVec 5}

/-- The move a step makes: the schedule's first, and the PE's when there is none (log 15). -/
def State.nextMove (s : State) : Move := s.schedule.headD .instruction

/-- The state a move starts from: the move is taken off the schedule (log 15). -/
def State.popMove (s : State) : State := { s with schedule := s.schedule.tail }

@[simp] theorem State.popMove_reg (s : State) : s.popMove.reg = s.reg := rfl
@[simp] theorem State.popMove_x (s : State) : s.popMove.x = s.x := rfl
@[simp] theorem State.popMove_pc (s : State) : s.popMove.pc = s.pc := rfl
@[simp] theorem State.popMove_mem (s : State) : s.popMove.mem = s.mem := rfl
@[simp] theorem State.popMove_window (s : State) : s.popMove.window = s.window := rfl
@[simp] theorem State.popMove_inp (s : State) : s.popMove.inp = s.inp := rfl
@[simp] theorem State.popMove_cfg (s : State) : s.popMove.cfg = s.cfg := rfl
@[simp] theorem State.popMove_program (s : State) : s.popMove.program = s.program := rfl
@[simp] theorem State.popMove_schedule (s : State) : s.popMove.schedule = s.schedule.tail := rfl
@[simp] theorem State.popMove_samples (s : State) : s.popMove.samples = s.samples := rfl
@[simp] theorem State.popMove_draws (s : State) : s.popMove.draws = s.draws := rfl
@[simp] theorem State.popMove_readX (s : State) (t : BitVec 5) : s.popMove.readX t = s.readX t := rfl
@[simp] theorem State.popMove_sampledReg (s : State) : s.popMove.sampledReg = s.sampledReg := rfl
@[simp] theorem fetch_popMove (s : State) : fetch s.popMove = fetch s := rfl

theorem State.popMove_of_schedule_nil (h : s.schedule = []) : s.popMove = s := by
  obtain ⟨⟩ := s
  cases h
  rfl

/-- R100, log 15: a step is the next move, made from the state without it. -/
theorem step_eq_runMove (s : State) : step s = runMove s.nextMove s.popMove := by
  unfold step runNext
  split
  · next h =>
    rw [State.popMove_of_schedule_nil h]
    simp [State.nextMove, h, runMove]
  · next m rest h => simp [State.nextMove, State.popMove, h]

theorem step_of_schedule_cons {m : Move} {rest : List Move} (h : s.schedule = m :: rest) :
    step s = runMove m s.popMove := by
  rw [step_eq_runMove, State.nextMove, h, List.headD_cons]

/-- The PE moves when the schedule is empty or says so. -/
theorem State.schedule_of_nextMove_instruction (h : s.nextMove = .instruction) :
    s.schedule = [] ∨ ∃ rest, s.schedule = .instruction :: rest := by
  cases hs : s.schedule with
  | nil => exact .inl rfl
  | cons m rest =>
    rw [State.nextMove, hs, List.headD_cons] at h
    exact .inr ⟨rest, by rw [h]⟩

/-- Every other move stands first in the schedule. -/
theorem State.schedule_of_nextMove {m : Move} (h : s.nextMove = m) (hm : m ≠ .instruction) :
    ∃ rest, s.schedule = m :: rest := by
  cases hs : s.schedule with
  | nil =>
    rw [State.nextMove, hs, List.headD_nil] at h
    exact absurd h.symm hm
  | cons m' rest =>
    rw [State.nextMove, hs, List.headD_cons] at h
    exact ⟨rest, by rw [h]⟩

/-! R100: which meaning an instruction has. -/

@[simp] theorem exec_mrs (t : BitVec 5) (s : State) : exec (.mrs t) s = execMrs t s := rfl
@[simp] theorem exec_msr (t : BitVec 5) (s : State) : exec (.msr t) s = execMsr t s := rfl

/-- Settles O29: MRS answers a next state on its two paths only, and on both it changes X[t], the pc and
the count of draws. -/
theorem mrsFrame : Obligations.MrsFrame := by
  intro s s' t h
  have hother (u : State) (v : Word) (r : BitVec 5) (hr : r ≠ t) :
      (u.writeX t v).advancePc.readX r = u.readX r :=
    (State.readX_congr (State.advancePc_x _) r).trans (State.readX_writeX_ne u v hr)
  rcases execMrs_next h with ⟨_, rfl⟩ | ⟨_, _, _, _, rfl⟩
  · refine ⟨fun r hr => ?_, by simp, by simp, fun a => by simp, by simp [State.sameSurroundings]⟩
    exact (hother _ _ r hr).trans (State.readX_congr (State.afterDirectRead_x s) r)
  · exact ⟨hother _ _, by simp, by simp, fun a => by simp, by simp [State.sameSurroundings]⟩

/-- R76: a store to the cell leaves every byte outside it. -/
theorem State.writeCell_byte_outside {a : Nat} (h : s.outsideCell a) (v : Word) :
    (s.writeCell v).mem.byte a = s.mem.byte a := by
  rw [State.writeCell_mem, Memory.byte_writeWord, if_neg]
  rcases h with h | h <;> omega

/-- Settles O30: MSR answers a next state on its two paths only; the path taken is the one decided, so the
other clause's premise fails. -/
theorem msrFrame : Obligations.MsrFrame := by
  intro s s' t h
  rcases execMsr_next h with ⟨hpath, rfl⟩ | ⟨hpath, _, _, _, rfl⟩
  · exact ⟨State.readX_congr (by simp), by simp [State.sameSurroundings],
      fun _ a => by simp, fun hmem => by simp [hpath] at hmem⟩
  · refine ⟨State.readX_congr (by simp), by simp [State.sameSurroundings],
      fun hreg => by simp [hpath] at hreg, fun _ => ⟨by simp, by simp, fun a ha => ?_⟩⟩
    rw [State.advancePc_mem, State.writeCell_byte_outside ha]

/-! What an instruction does to the register and to the inputs. -/

theorem exec_keeps_inp {i : Instr} (h : exec i s = .next s') : s'.inp = s.inp := by
  cases i with
  | mrs t =>
    obtain ⟨_, _, _, _, hinp, _⟩ := mrsFrame s s' t h
    exact hinp
  | msr t =>
    obtain ⟨_, ⟨hinp, _⟩, _⟩ := msrFrame s s' t h
    exact hinp

/-- R53: the register after an MSR that reached it. -/
theorem execMsr_reg (h : execMsr t s = .next s') (hpath : msrAccess s.cfg s.inp = .register) :
    s'.reg = s.readX t &&& writeMask s.cfg := by
  rcases execMsr_next h with ⟨_, rfl⟩ | ⟨hmem, _⟩
  · simp
  · simp [hpath] at hmem

/-- R32: an instruction that changes the register is an MSR whose access reached it. -/
theorem exec_changes_reg {i : Instr} (h : exec i s = .next s') (hne : s'.reg ≠ s.reg) :
    ∃ t, i = .msr t ∧ msrAccess s.cfg s.inp = .register
      ∧ s'.reg = s.readX t &&& writeMask s.cfg := by
  cases i with
  | mrs t =>
    obtain ⟨_, hreg, _⟩ := mrsFrame s s' t h
    exact absurd hreg hne
  | msr t =>
    rcases execMsr_next h with ⟨hpath, _⟩ | ⟨_, _, _, _, rfl⟩
    · exact ⟨t, rfl, hpath, execMsr_reg h hpath⟩
    · simp at hne

/-- Settles O10: of the six moves only a reset and the PE's can change the register, and the PE's only by
an MSR that reached it. -/
theorem onlyMsrAndResetWriteTheRegister : Obligations.OnlyMsrAndResetWriteTheRegister := by
  intro s s' h hne
  rw [step_eq_runMove] at h
  cases hm : s.nextMove with
  | instruction =>
    rw [hm] at h
    obtain ⟨i, hfetch, hexec⟩ := runPE_next h
    obtain ⟨t, rfl, hpath, hreg⟩ := exec_changes_reg hexec hne
    exact .inr ⟨State.schedule_of_nextMove_instruction hm, t, hfetch, hpath, hreg⟩
  | reset kind after =>
    obtain ⟨rest, hs⟩ := State.schedule_of_nextMove hm (by simp)
    exact .inl ⟨kind, after, rest, hs⟩
  | sample ev => rw [hm] at h; cases h; simp at hne
  | syncPoint => rw [hm] at h; cases h; simp at hne
  | environment after => rw [hm] at h; cases h; simp at hne
  | store a b =>
    rw [hm] at h
    obtain ⟨_, rfl⟩ := foreignStore_next h
    simp at hne

/-- Settles O11: of the six moves only the environment's and a reset set the inputs, both to those they
carry. -/
theorem onlyTheEnvironmentChangesInputs : Obligations.OnlyTheEnvironmentChangesInputs := by
  intro s s' h hne
  rw [step_eq_runMove] at h
  cases hm : s.nextMove with
  | environment after =>
    obtain ⟨rest, hs⟩ := State.schedule_of_nextMove hm (by simp)
    rw [hm] at h
    cases h
    exact .inl ⟨after, rest, hs, rfl⟩
  | reset kind after =>
    obtain ⟨rest, hs⟩ := State.schedule_of_nextMove hm (by simp)
    rw [hm] at h
    cases h
    exact .inr ⟨kind, after, rest, hs, rfl⟩
  | instruction =>
    rw [hm] at h
    obtain ⟨i, _, hexec⟩ := runPE_next h
    exact absurd (exec_keeps_inp hexec) hne
  | sample ev => rw [hm] at h; cases h; simp at hne
  | syncPoint => rw [hm] at h; cases h; simp at hne
  | store a b =>
    rw [hm] at h
    obtain ⟨_, rfl⟩ := foreignStore_next h
    simp at hne

end Sys2Proof.Machine
end

section
/-! Proofs, part 3: the invariant. It speaks of register, window, parameters and memory only; each
operation that touches one of them keeps it. -/

namespace Sys2Proof.Machine

variable {s s' : State} {t : BitVec 5}

theorem State.Inv.holdable_reg (h : s.Inv) : holdable s.cfg s.reg := h.1

theorem State.Inv.mem_wf (h : s.Inv) : s.mem.wf = true := h.2.2.2

/-- The invariant reads four fields only. -/
theorem State.Inv.congr (h : s.Inv) (hreg : s'.reg = s.reg) (hwindow : s'.window = s.window)
    (hcfg : s'.cfg = s.cfg) (hmem : s'.mem = s.mem) : s'.Inv := by
  unfold State.Inv
  rwa [hreg, hwindow, hcfg, hmem]

theorem State.Inv.with_mem (h : s.Inv) {m : Memory} (hm : m.wf = true) :
    State.Inv { s with mem := m } := by
  obtain ⟨hreg, hwindow, habsent, _⟩ := h
  exact ⟨hreg, hwindow, habsent, hm⟩

/-- A value the register can hold may be put in it, with the window emptied. -/
theorem State.Inv.with_reg_no_window (h : s.Inv) {v : Word} (hv : holdable s.cfg v) :
    State.Inv { s with reg := v, window := [] } := by
  obtain ⟨_, _, _, hmem⟩ := h
  exact ⟨hv, fun _ hw => absurd hw List.not_mem_nil, fun _ => rfl, hmem⟩

theorem State.Inv.advancePc (h : s.Inv) : s.advancePc.Inv :=
  h.congr (by simp) (by simp) (by simp) (by simp)

/-- R53: with the register present, a direct write leaves a holdable value in it and the holdable value
written over in the window. -/
theorem State.Inv.directWrite (h : s.Inv) (hpresent : s.cfg.featSPE = true) (v : Word) :
    (s.directWrite v).Inv := by
  obtain ⟨hreg, hwindow, _, hmem⟩ := h
  refine ⟨holdable_masked hpresent v, ?_, fun habsent => ?_, hmem⟩
  · intro w hw
    rcases List.mem_cons.1 hw with rfl | hw
    · exact hreg
    · exact hwindow w hw
  · rw [State.directWrite_cfg, hpresent] at habsent
    cases habsent

/-- R77: an aligned cell lies inside the address space, so a write of it keeps memory canonical. -/
theorem State.Inv.writeCell (h : s.Inv) (halign : s.inp.nvBase.extractLsb' 0 3 = 0#3) (v : Word) :
    (s.writeCell v).Inv :=
  have ⟨_, hfits⟩ := nvCellAddr_spec halign
  h.with_mem (Memory.writeWord_wf _ v hfits h.mem_wf)

/-- R101: an access that reaches the register finds it present. -/
theorem ifPresent_register {c : Config} {a : Access} (h : ifPresent c a = .register) :
    c.featSPE = true := by
  cases hpresent : c.featSPE with
  | true => rfl
  | false => simp [ifPresent, hpresent] at h

theorem exec_keeps_inv {i : Instr} (h : exec i s = .next s') (hinv : s.Inv) : s'.Inv := by
  cases i with
  | mrs t =>
    rcases execMrs_next h with ⟨_, rfl⟩ | ⟨_, _, _, _, rfl⟩
    all_goals exact State.Inv.advancePc (hinv.congr (by simp) (by simp) (by simp) (by simp))
  | msr t =>
    rcases execMsr_next h with ⟨hpath, rfl⟩ | ⟨_, halign, _, _, rfl⟩
    · exact (hinv.directWrite (ifPresent_register hpath) _).advancePc
    · exact (hinv.writeCell halign _).advancePc

theorem State.Inv.doReset (h : s.Inv) (kind : ResetKind) (after : Context) :
    (s.doReset kind after).Inv :=
  (h.with_reg_no_window (holdable_resetReg s.cfg _)).congr rfl rfl rfl rfl

theorem State.Inv.syncPoint (h : s.Inv) : s.syncPoint.Inv :=
  h.with_reg_no_window h.holdable_reg

theorem runMove_keeps_inv {m : Move} (h : runMove m s = .next s') (hinv : s.Inv) : s'.Inv := by
  cases m with
  | instruction =>
    obtain ⟨_, _, hexec⟩ := runPE_next h
    exact exec_keeps_inv hexec hinv
  | sample ev => cases h; exact hinv.congr (by simp) (by simp) (by simp) (by simp)
  | syncPoint => cases h; exact hinv.syncPoint
  | reset kind after => cases h; exact hinv.doReset kind after
  | environment after => cases h; exact hinv.congr rfl rfl rfl rfl
  | store a b =>
    obtain ⟨_, rfl⟩ := foreignStore_next h
    exact hinv.with_mem (Memory.putByte_wf b a.isLt hinv.mem_wf)

/-- Settles O7: a step is a move made from the state without it, and every move keeps the invariant. -/
theorem everyStepKeepsInvariant : Obligations.EveryStepKeepsInvariant := by
  intro s s' hinv h
  rw [step_eq_runMove] at h
  exact runMove_keeps_inv h (hinv.congr rfl rfl rfl rfl)

/-- Settles O8: the value a reset leaves can be held whatever was drawn. -/
theorem resetMeetsInvariant : Obligations.ResetMeetsInvariant :=
  ⟨holdable_resetReg _ _, fun _ hw => absurd hw List.not_mem_nil, fun _ => rfl, rfl⟩

end Sys2Proof.Machine
end

section
/-! Proofs, part 4: reads through MRS. -/

namespace Sys2Proof.Machine

variable {s s' : State} {t : BitVec 5}

/-- R104, R54: what X[t] holds after an MRS whose access reached the register. -/
theorem execMrs_readX (h : execMrs t s = .next s') (hpath : mrsAccess s.cfg s.inp = .register)
    (ht : t ≠ 31#5) : s'.readX t = regRead s.cfg s.reg (Config.freeBit s.draws) := by
  rcases execMrs_next h with ⟨_, rfl⟩ | ⟨hmem, _⟩
  · exact (State.readX_congr (State.advancePc_x _) t).trans (State.readX_writeX_same _ _ ht)
  · simp [hpath] at hmem

/-- Settles O20: by the frame of the first MRS the second reads the same register with the same decision;
the two values are `regRead` of one value with two draws. -/
theorem consecutiveReadsDifferOnlyInBitOne : Obligations.ConsecutiveReadsDifferOnlyInBitOne := by
  intro s s1 s2 t r hinv hpath h1 h2 ht hr
  obtain ⟨_, hreg, _, _, hinp, hcfg, _⟩ := mrsFrame s s1 t h1
  have hread1 := execMrs_readX h1 hpath ht
  have hread2 := execMrs_readX h2 (by rwa [hcfg, hinp]) hr
  rw [hreg, hcfg] at hread2
  refine ⟨_, hread1, regRead_and_alwaysRaz hinv.holdable_reg _, ?_, fun hactive => ?_⟩
  · rw [hread2, regRead_outside_bit_one, regRead_outside_bit_one]
  · rw [hread2, regRead_of_active hactive, regRead_of_active hactive]

end Sys2Proof.Machine
end

section
/-! Proofs, part 5: the inputs a guard switches off (R59). -/

namespace Sys2Proof.Machine

/-- R116: MSR decides as MRS does with HDFGWTR_EL2's bit in HDFGRTR_EL2's place. -/
theorem msrAccess_eq_mrsAccess (c : Config) (i : Inputs) :
    msrAccess c i = mrsAccess c { i with fgtRead := i.fgtWrite } := rfl

/-- R59: without EL3 each test of NS, FGTEn or NSPB stands beside HAVE_EL3. -/
theorem mrsAccess_without_el3 {c : Config} (h : c.haveEL3 = false) (i : Inputs)
    (ns fgtEn : BitVec 1) (nspb : BitVec 2) :
    mrsAccess c { i with ns := ns, fgtEn := fgtEn, nspb := nspb } = mrsAccess c i := by
  cases hel : i.el <;> simp [mrsAccess, mrsPseudocode, nvPatternIs1x1, h, hel]

/-- R59: with EL2 not enabled each test of an EL2 control stands beside EL2Enabled. -/
theorem mrsAccess_without_el2 (c : Config) {i : Inputs} (h : i.el2Enabled = false)
    (r wr tp n2 n1 n : BitVec 1) :
    mrsAccess c { i with fgtRead := r, fgtWrite := wr, tpms := tp, nv2 := n2, nv1 := n1, nv := n }
      = mrsAccess c i := by
  cases hel : i.el <;> simp [mrsAccess, mrsPseudocode, h, hel]

/-- Settles O43: for MRS by the guards of its pseudocode, for MSR through MRS. -/
theorem guardedInputsDoNotMatter : Obligations.GuardedInputsDoNotMatter := by
  intro c i w
  constructor
  · intro h ns fgtEn nspb
    cases w with
    | false => exact mrsAccess_without_el3 h i ns fgtEn nspb
    | true => exact mrsAccess_without_el3 h { i with fgtRead := i.fgtWrite } ns fgtEn nspb
  · intro h r wr tp n2 n1 n
    cases w with
    | false => exact mrsAccess_without_el2 c h r wr tp n2 n1 n
    | true =>
      calc msrAccess c { i with fgtRead := r, fgtWrite := wr, tpms := tp, nv2 := n2, nv1 := n1, nv := n }
          = mrsAccess c { i with fgtRead := wr, fgtWrite := wr, tpms := tp, nv2 := n2, nv1 := n1, nv := n } :=
            msrAccess_eq_mrsAccess c _
        _ = mrsAccess c { i with fgtRead := i.fgtWrite } :=
            (mrsAccess_without_el2 c h wr wr tp n2 n1 n).trans
              (mrsAccess_without_el2 c h i.fgtWrite i.fgtWrite i.tpms i.nv2 i.nv1 i.nv).symm
        _ = msrAccess c i := (msrAccess_eq_mrsAccess c i).symm

end Sys2Proof.Machine
end

section
/-! Proofs, part 6: the event filter bit by bit (R55, R57), and samples (R162). -/

namespace Sys2Proof.Machine

variable {s s' : State}

/-- R55: a bit is in `MB` when it is in the mask of a multi-bit event. -/
theorem multibitMask_getLsbD (c : Config) (x : Nat) :
    (multibitMask c).getLsbD x = c.multibit.any fun e => e.1.getLsbD x := by
  unfold multibitMask
  induction c.multibit with
  | nil => simp
  | cons e rest ih => simp [ih]

/-- R55: bit x lies in no multi-bit event. -/
theorem multibitMask_getLsbD_eq_false (c : Config) (x : Nat) :
    (multibitMask c).getLsbD x = false ↔ ∀ e ∈ c.multibit, e.1.getLsbD x = false := by
  simp [multibitMask_getLsbD]

/-- R55, R57: the single-bit part of the filter, read at one bit: it bars a sample at x when E[x] is an
R/W field set to 1, x lies in no multi-bit event and the sample lacks event x. -/
theorem singleBitPart_getLsbD (c : Config) (reg ev : Word) {x : Nat} (hx : x < 64) :
    (effectiveFilter c reg &&& ~~~multibitMask c &&& ~~~ev).getLsbD x
      = ((reg.getLsbD x && bitIsRw c x) && !(multibitMask c).getLsbD x && !ev.getLsbD x) := by
  simp only [effectiveFilter, BitVec.getLsbD_and, BitVec.getLsbD_not, writeMask_getLsbD c hx, hx,
    decide_true, Bool.true_and]

/-- R55: the single-bit part is 0 when the sample has every event it asks for. -/
theorem singleBitPart_eq_zero_iff (c : Config) (reg ev : Word) :
    effectiveFilter c reg &&& ~~~multibitMask c &&& ~~~ev = 0#64 ↔
      ∀ x < 64, bitIsRw c x = true → reg.getLsbD x = true →
        (∀ e ∈ c.multibit, e.1.getLsbD x = false) → ev.getLsbD x = true := by
  rw [word_eq_zero_iff_bits]
  refine forall₂_congr fun x hx => ?_
  rw [singleBitPart_getLsbD c reg ev hx, ← multibitMask_getLsbD_eq_false]
  cases bitIsRw c x <;> cases reg.getLsbD x <;> simp

/-- R55: with FE 0 the register is ignored. -/
theorem eventFilterPass_fe_zero (c : Config) (reg ev : Word) : eventFilterPass c reg 0#1 ev = true := rfl

/-- R55: with FE 1 both parts of the filter must hold. -/
theorem eventFilterPass_fe_one (c : Config) (reg ev : Word) :
    eventFilterPass c reg 1#1 ev = true ↔
      effectiveFilter c reg &&& ~~~multibitMask c &&& ~~~ev = 0#64
      ∧ ∀ e ∈ c.multibit,
          Config.multibitFilter e.2 (effectiveFilter c reg &&& e.1) (ev &&& e.1) = true := by
  simp [eventFilterPass]

/-- Settles O48: the filter's two parts, the first read bit by bit. -/
theorem eventFilterBitByBit : Obligations.EventFilterBitByBit := by
  intro c reg ev
  refine ⟨eventFilterPass_fe_zero c reg ev, ?_⟩
  rw [eventFilterPass_fe_one, singleBitPart_eq_zero_iff]
  rfl

/-- R57: the filter reads the register through `Eeff` only. -/
theorem eventFilterPass_congr {c : Config} {v v' : Word}
    (h : effectiveFilter c v = effectiveFilter c v') (fe : BitVec 1) (ev : Word) :
    eventFilterPass c v fe ev = eventFilterPass c v' fe ev := by
  rw [eventFilterPass, eventFilterPass, h]

/-- Settles O49: `Eeff` is the register under WriteMask, where bit 1 is in the mask only with SpecActive. -/
theorem onlyWritableBitsFilter : Obligations.OnlyWritableBitsFilter := by
  refine ⟨fun c v v' fe ev h => eventFilterPass_congr h fe ev, fun c v hinactive => ?_,
    fun s hinv => hinv.holdable_reg.masked, eventFilterPass_fe_zero⟩
  rw [effectiveFilter, masked_getLsbD c v (by decide), bitIsRw_one, hinactive, Bool.and_false]

/-! Samples. -/

/-- R55: the verdict a sample records. -/
theorem State.takeSample_samples (hpresent : s.cfg.featSPE = true) (ev : Word) :
    (s.takeSample ev).samples
      = s.samples ++ [⟨ev, eventFilterPass s.cfg s.sampledReg s.inp.fe ev⟩] := by
  simp [State.takeSample, hpresent]

theorem State.sampledReg_of_no_window (h : s.window = []) : s.sampledReg = s.reg := by
  simp [State.sampledReg, h]

/-- Looking a list up at any place, with one of its own members as the default, yields a member. -/
theorem getElem?_getD_mem {α : Type} {l : List α} {d : α} (hd : d ∈ l) (n : Nat) :
    (l[n]?).getD d ∈ l := by
  cases hget : l[n]? with
  | none => exact hd
  | some a => exact List.mem_of_getElem? hget

/-- R162: a sample uses the register or an older value of the window. -/
theorem State.sampledReg_mem (s : State) : s.sampledReg = s.reg ∨ s.sampledReg ∈ s.window := by
  rw [← List.mem_cons]
  unfold State.sampledReg
  split
  · exact List.mem_cons_self
  · exact getElem?_getD_mem List.mem_cons_self _

theorem step_of_sample {ev : Word} {rest : List Move} (h : s.schedule = .sample ev :: rest) :
    step s = .next (s.popMove.takeSample ev) :=
  step_of_schedule_cons h

/-- Settles O51: the value used is `sampledReg`. -/
theorem sampleUsesOldOrNewValue : Obligations.SampleUsesOldOrNewValue := by
  intro s ev rest hs hpresent
  refine ⟨s.popMove.takeSample ev, s.sampledReg, step_of_sample hs, s.sampledReg_mem,
    State.sampledReg_of_no_window, State.takeSample_samples hpresent ev, ?_⟩
  simp [hs]

/-- R55: with FE 1 a sample that lacks a required event fails. -/
theorem eventFilterPass_of_lacking {c : Config} {reg ev : Word} {x : Nat} (hx : x < 64)
    (hrw : bitIsRw c x = true) (hsingle : ∀ e ∈ c.multibit, e.1.getLsbD x = false)
    (hset : reg.getLsbD x = true) (hlacks : ev.getLsbD x = false) :
    eventFilterPass c reg 1#1 ev = false := by
  refine Bool.eq_false_iff.2 fun hpass => ?_
  obtain ⟨hevents, _⟩ := (eventFilterBitByBit c reg ev).2.1 hpass
  have hhas := hevents x hx hrw hset hsingle
  rw [hlacks] at hhas
  cases hhas

/-- Settles O50: with the window empty the verdict is the filter's on the register, and bit x fails it. -/
theorem sampleWithoutRequiredEventIsDropped : Obligations.SampleWithoutRequiredEventIsDropped := by
  intro s s' ev rest x hs hpresent hfe hwindow hx hrw hsingle hset hlacks h
  rw [step_of_sample hs] at h
  cases h
  have hverdict := State.takeSample_samples (s := s.popMove) hpresent ev
  have hfail := eventFilterPass_of_lacking hx hrw hsingle hset hlacks
  rwa [State.popMove_samples, State.popMove_cfg, State.popMove_inp, State.popMove_sampledReg,
    State.sampledReg_of_no_window hwindow, hfe, hfail] at hverdict

end Sys2Proof.Machine
end

section
/-! Proofs, part 7: resets (R66, R163). -/

namespace Sys2Proof.Machine

variable {s : State}

theorem step_of_reset {kind : ResetKind} {after : Context} {rest : List Move}
    (h : s.schedule = .reset kind after :: rest) : step s = .next (s.popMove.doReset kind after) :=
  step_of_schedule_cons h

/-- R66: where the register is present a reset leaves a draw under WriteMask. -/
theorem resetReg_of_present {c : Config} (h : c.featSPE = true) (draw : Word) :
    resetReg c draw = draw &&& writeMask c := by
  simp [resetReg, h]

/-- Settles O53: the reset move's fields, one by one. -/
theorem resetDrawsTheRegister : Obligations.ResetDrawsTheRegister := by
  intro s kind after rest hs hpresent
  have hreg : (s.popMove.doReset kind after).reg = Config.freeWord s.draws &&& writeMask s.cfg :=
    resetReg_of_present hpresent _
  refine ⟨s.popMove.doReset kind after, step_of_reset hs, hreg, fun x hraz hx => ?_, ?_⟩
  · rw [hreg, masked_getLsbD _ _ hx, hraz, Bool.and_false]
  · simp [hs]

/-- R113: at EL3 MRS reads the register. -/
theorem mrsAccess_el3 {c : Config} {i : Inputs} (hpresent : c.featSPE = true) (hel : i.el = .el3) :
    mrsAccess c i = .register := by
  simp [mrsAccess, ifPresent, mrsPseudocode, hpresent, hel]

/-- Settles O54: at EL3 MRS yields `regRead` of the masked draw. -/
theorem firstReadAfterResetShowsTheDraw : Obligations.FirstReadAfterResetShowsTheDraw := by
  intro s s1 s2 kind after rest t hs hpresent hel h1 h2 ht x hx
  rw [step_of_reset hs] at h1
  cases h1
  have hread := execMrs_readX h2 (mrsAccess_el3 hpresent hel) ht
  rw [hread, State.doReset_reg, State.doReset_cfg, State.doReset_draws, State.popMove_cfg,
    State.popMove_draws, resetReg_of_present hpresent]
  exact regRead_masked_getLsbD s.cfg _ _ hx

end Sys2Proof.Machine
end

section
/-! Proofs, part 8: a step of the PE runs the instruction whose word stands at pc (R83, R100). -/

namespace Sys2Proof

/-! The fields of an encoded word (R88): the fixed ones name the register, L and Rt are the operands. -/

theorem namesPmsevfr_sysregMoveWord (l : BitVec 1) (t : BitVec 5) :
    namesPmsevfr (sysregMoveWord l t) = true := by
  revert l t; decide

theorem wordL_sysregMoveWord (l : BitVec 1) (t : BitVec 5) : wordL (sysregMoveWord l t) = l := by
  revert l t; decide

theorem wordRt_sysregMoveWord (l : BitVec 1) (t : BitVec 5) : wordRt (sysregMoveWord l t) = t := by
  revert l t; decide

/-- R89, R90: the decoder reads back what was encoded. -/
theorem decode_encode (i : Instr) : decode (encode i) = .ok i := by
  cases i <;>
    simp [decode, encode, namesPmsevfr_sysregMoveWord, wordL_sysregMoveWord, wordRt_sysregMoveWord]

end Sys2Proof

namespace Sys2Proof.Machine

variable {s : State} {i : Instr}

theorem fetch_of_word {w : BitVec 32} (hword : tableFind s.program s.pc.toNat = some w)
    (hdecode : decode w = .ok i) : fetch s = .ok i := by
  simp [fetch, hword, hdecode]

theorem runPE_of_fetch (h : fetch s = .ok i) : runPE s = exec i s := by
  simp [runPE, h]

theorem step_of_schedule_nil (h : s.schedule = []) : step s = runPE s := by
  simp [step, runNext, h]

theorem State.popMove_of_schedule_cons {m : Move} {rest : List Move} (h : s.schedule = m :: rest) :
    s.popMove = { s with schedule := rest } := by
  rw [State.popMove, h, List.tail_cons]

/-- R83: withFetchWord puts the encoded word where the fetch looks it up. -/
theorem fetch_withFetchWord_encode (s : State) (i : Instr) :
    fetch (s.withFetchWord 32 (encode i).toNat) = .ok i := by
  refine fetch_of_word (w := encode i) ?_ (decode_encode i)
  simp [State.withFetchWord]

/-- Settles O5: in each clause the fetch yields i, and the PE executes what it fetched. -/
theorem stepRunsDecodedInstruction : Obligations.StepRunsDecodedInstruction := by
  refine ⟨fun s w i hword hdecode => ?_, fun s i => ?_⟩
  · have hfetch := fetch_of_word hword hdecode
    refine ⟨fun hs => (step_of_schedule_nil hs).trans (runPE_of_fetch hfetch), fun rest hs => ?_⟩
    rw [step_of_schedule_cons hs, ← State.popMove_of_schedule_cons hs]
    exact runPE_of_fetch ((fetch_popMove s).trans hfetch)
  · exact (step_of_schedule_nil rfl).trans (runPE_of_fetch (fetch_withFetchWord_encode s i))

end Sys2Proof.Machine
end

section
/-! Proofs, part 9: what the steps of all agents leave alone (R6 to R15, R83), and the frames of the
environment's moves (log 15). -/

namespace Sys2Proof.Machine

variable {s s' : State}

theorem exec_keeps_surroundings {i : Instr} (h : exec i s = .next s') : s.sameSurroundings s' := by
  cases i with
  | mrs t =>
    obtain ⟨_, _, _, _, hsame⟩ := mrsFrame s s' t h
    exact hsame
  | msr t =>
    obtain ⟨_, hsame, _⟩ := msrFrame s s' t h
    exact hsame

theorem runMove_keeps_cfg_program {m : Move} (h : runMove m s = .next s') :
    s'.cfg = s.cfg ∧ s'.program = s.program := by
  cases m with
  | instruction =>
    obtain ⟨_, _, hexec⟩ := runPE_next h
    obtain ⟨_, hcfg, hprogram, _⟩ := exec_keeps_surroundings hexec
    exact ⟨hcfg, hprogram⟩
  | sample ev => cases h; exact ⟨State.takeSample_cfg s ev, State.takeSample_program s ev⟩
  | syncPoint => cases h; exact ⟨rfl, rfl⟩
  | reset kind after => cases h; exact ⟨rfl, rfl⟩
  | environment after => cases h; exact ⟨rfl, rfl⟩
  | store a b =>
    obtain ⟨_, rfl⟩ := foreignStore_next h
    exact ⟨rfl, rfl⟩

/-- Settles O9: a step is a move made from the state without it, and no move changes either. -/
theorem parametersAndProgramAreFixed : Obligations.ParametersAndProgramAreFixed := by
  intro s s' h
  rw [step_eq_runMove] at h
  exact runMove_keeps_cfg_program (s := s.popMove) h

theorem foreignStore_of_overlap {a : Word} (h : overlapsProgram s.program a.toNat 1 = true)
    (b : Byte) : s.foreignStore a b = .refused .overlapsProgram := if_pos h

theorem foreignStore_of_clear {a : Word} (h : overlapsProgram s.program a.toNat 1 = false)
    (b : Byte) : s.foreignStore a b = .next { s with mem := s.mem.putByte a.toNat b } :=
  if_neg (by simp [h])

/-- Settles O55: the two cases of a store move and the one of the environment's move. -/
theorem environmentMovesFrame : Obligations.EnvironmentMovesFrame := by
  refine fun s rest => ⟨fun a b hs hover => ?_, fun a b hs hclear => ?_, fun after hs => ?_⟩
  · exact (step_of_schedule_cons hs).trans (foreignStore_of_overlap (s := s.popMove) hover b)
  · refine ⟨{ s.popMove with mem := s.mem.putByte a.toNat b },
      (step_of_schedule_cons hs).trans (foreignStore_of_clear (s := s.popMove) hclear b),
      fun k => Memory.byte_putByte s.mem a.toNat k b, ?_⟩
    rw [State.popMove_of_schedule_cons hs]
  · rw [step_of_schedule_cons hs, State.popMove_of_schedule_cons hs]
    rfl

end Sys2Proof.Machine
end

section
/-! Proofs, part 10: reads after writes, of the register and of the memory cell that stands for it on the
redirected path (R72 to R80). -/

namespace Sys2Proof.Machine

variable {s s' : State} {t : BitVec 5}

/-- Settles O19: by the frame of the MSR, the MRS reads with the same decision and parameters the value
the MSR left. -/
theorem readAfterWriteReturnsMaskedValue : Obligations.ReadAfterWriteReturnsMaskedValue := by
  intro s s1 s2 t r hwrite hread h1 h2 hr
  obtain ⟨_, ⟨hinp, hcfg, _⟩, _⟩ := msrFrame s s1 t h1
  have hvalue := execMrs_readX h2 (by rwa [hcfg, hinp]) hr
  rw [execMsr_reg h1 hwrite, hcfg] at hvalue
  exact ⟨hvalue, fun hactive => hvalue.trans (regRead_of_active hactive _ _)⟩

/-! The bytes of a word (R76). -/

/-- Joining eight bytes and taking the byte at an offset gives that byte, in either byte order: the joined
bytes below and above it fall away one by one. -/
theorem byteOfWord_wordOfBytes (be : Bool) (f : Nat → Byte) {i : Nat} (hi : i < 8) :
    byteOfWord be (wordOfBytes be f) i = f i := by
  cases be <;> simp only [byteOfWord, wordOfBytes, if_true, Bool.false_eq_true, if_false]
  all_goals
    interval_cases i
    all_goals
      simp (disch := omega) only [BitVec.extractLsb'_append_eq_of_le,
        BitVec.extractLsb'_append_eq_of_add_le]
      exact BitVec.extractLsb'_eq_self

/-- R74, R76: the bytes of a word read from memory are those memory holds. -/
theorem Memory.byteOfWord_readWord (m : Memory) (be : Bool) (a : Nat) {i : Nat} (hi : i < 8) :
    byteOfWord be (m.readWord be a) i = m.byte (a + i) :=
  byteOfWord_wordOfBytes be (fun k => m.byte (a + k)) hi

/-- R76: the byte at an offset of a word just written. -/
theorem Memory.byte_writeWord_inside (m : Memory) (be : Bool) (a : Nat) (v : Word) {i : Nat}
    (hi : i < 8) : (m.writeWord be a v).byte (a + i) = byteOfWord be v i := by
  rw [Memory.byte_writeWord, if_pos (by omega), Nat.add_sub_cancel_left]

/-- The cell's address and byte order hang on inputs and parameters only. -/
theorem State.readCell_congr (hmem : s'.mem = s.mem) (hinp : s'.inp = s.inp)
    (hcfg : s'.cfg = s.cfg) : s'.readCell = s.readCell := by
  rw [State.readCell, State.readCell, State.cell, State.cell, hmem, hinp, hcfg]

/-- R80: the cell holds the last word written to it. -/
theorem State.readCell_writeCell (s : State) (v : Word) : (s.writeCell v).readCell = v :=
  Memory.readWord_writeWord s.mem s.cfg.nvmemBigEndian s.cell v

/-! The memory access (R77, log 19): one equation for each way it ends. -/

theorem memoryAccess_misaligned (h : s.inp.nvBase.extractLsb' 0 3 ≠ 0#3) (verdict : Option Nat)
    (done : Result) : memoryAccess s verdict done = .refused .nvBaseMisaligned := if_pos h

theorem memoryAccess_overlaps (halign : s.inp.nvBase.extractLsb' 0 3 = 0#3)
    (hover : overlapsProgram s.program s.cell 8 = true) (verdict : Option Nat) (done : Result) :
    memoryAccess s verdict done = .refused .overlapsProgram := by
  simp [memoryAccess, halign, hover]

theorem memoryAccess_faults (halign : s.inp.nvBase.extractLsb' 0 3 = 0#3)
    (hclear : overlapsProgram s.program s.cell 8 = false) (info : Nat) (done : Result) :
    memoryAccess s (some info) done = .fault (.memFault info) := by
  simp [memoryAccess, halign, hclear]

/-! Either instruction on the memory path (R103), w true for MSR. -/

/-- R103: the state a redirected access leaves, before the pc moves on. -/
def State.afterCellAccess (s : State) (w : Bool) (t : BitVec 5) : State :=
  if w then s.writeCell (s.readX t) else s.writeX t s.readCell

theorem State.afterCellAccess_mrs (s : State) (t : BitVec 5) :
    s.afterCellAccess false t = s.writeX t s.readCell := rfl

theorem State.afterCellAccess_msr (s : State) (t : BitVec 5) :
    s.afterCellAccess true t = s.writeCell (s.readX t) := rfl

theorem exec_of_memory {w : Bool} (h : accessOf s.cfg s.inp w = .memory) :
    exec (sysregMove w t) s =
      memoryAccess s (if w then s.inp.nvWriteFault else s.inp.nvReadFault)
        (complete (s.afterCellAccess w t)) := by
  cases w with
  | false =>
    have hmrs : mrsAccess s.cfg s.inp = .memory := h
    simp [sysregMove, execMrs, hmrs, State.afterCellAccess]
  | true =>
    have hmsr : msrAccess s.cfg s.inp = .memory := h
    simp [sysregMove, execMsr, hmsr, State.afterCellAccess]

/-- R77, R103: where the environment lets the access succeed, the instruction completes. -/
theorem exec_of_cellReachable {w : Bool} (h : accessOf s.cfg s.inp w = .memory)
    (hreach : s.cellReachable w) :
    exec (sysregMove w t) s = .next (s.afterCellAccess w t).advancePc := by
  obtain ⟨halign, hclear, hverdict⟩ := hreach
  rw [exec_of_memory h, hverdict, memoryAccess_done halign hclear, complete]

/-- Settles O28: on the memory path the instruction is the memory access, which stops in each of the three
cases. -/
theorem memoryPathStops : Obligations.MemoryPathStops := by
  intro s w t h
  rw [exec_of_memory h]
  refine ⟨fun hodd => memoryAccess_misaligned hodd _ _,
    fun halign hover => memoryAccess_overlaps halign hover _ _, fun info halign hclear hverdict => ?_⟩
  rw [hverdict, memoryAccess_faults halign hclear]

theorem State.pcAdvanced_advancePc (h : s'.pc = s.pc) : s.pcAdvanced s'.advancePc := by
  intro hfits
  rw [State.advancePc_pc_of_lt (by rwa [h]), h]

/-- X[t] after a completed redirected read. -/
theorem State.readX_afterCellRead (s : State) (ht : t ≠ 31#5) :
    (s.afterCellAccess false t).advancePc.readX t = s.readCell :=
  (State.readX_congr (State.advancePc_x _) t).trans (State.readX_writeX_same s _ ht)

/-- Settles O23: X[t] takes the word read from the cell, whose bytes are the cell's. -/
theorem mrsReadsTheCell : Obligations.MrsReadsTheCell := by
  intro s t hpath hreach
  refine ⟨(s.afterCellAccess false t).advancePc, exec_of_cellReachable (w := false) hpath hreach,
    fun ht i hi => ?_, fun ht => ?_, ?_, ?_⟩
  · rw [State.readX_afterCellRead s ht]
    exact Memory.byteOfWord_readWord s.mem _ s.cell hi
  · simp [State.afterCellAccess_mrs, ht]
  · simp [State.afterCellAccess_mrs]
  · exact State.pcAdvanced_advancePc (by simp [State.afterCellAccess_mrs])

/-- Settles O24: the cell takes the word X[t], byte by byte. -/
theorem msrWritesTheCell : Obligations.MsrWritesTheCell := by
  intro s t hpath hreach
  refine ⟨(s.afterCellAccess true t).advancePc, exec_of_cellReachable (w := true) hpath hreach,
    fun i hi => ?_, ?_, ?_, ?_⟩
  · rw [State.advancePc_mem]
    exact Memory.byte_writeWord_inside s.mem _ s.cell _ hi
  · simp [State.afterCellAccess_msr]
  · simp [State.afterCellAccess_msr]
  · exact State.pcAdvanced_advancePc rfl

/-- R103: an access on the memory path that answers a next state leaves this one. -/
theorem exec_next_of_memory {w : Bool} (h : accessOf s.cfg s.inp w = .memory)
    (hnext : exec (sysregMove w t) s = .next s') : s' = (s.afterCellAccess w t).advancePc := by
  rw [exec_of_memory h] at hnext
  obtain ⟨_, _, _, hdone⟩ := memoryAccess_next hnext
  cases hdone
  rfl

/-- Settles O25: the cell lies at NVBase + 0x830, and byte i of a little-endian word is its bits
[8i+7:8i]. -/
theorem cellIsLittleEndianByDefault : Obligations.CellIsLittleEndianByDefault := by
  intro s s' t hlittle hpath h hfits i hi
  have hcell : s.cell = s.inp.nvBase.toNat + 0x830 := nvCellAddr_of_lt hfits
  have hbyte := Memory.byte_writeWord_inside s.mem s.cfg.nvmemBigEndian s.cell (s.readX t) hi
  rw [exec_next_of_memory (w := true) hpath h, ← hcell, State.advancePc_mem,
    State.afterCellAccess_msr, State.writeCell_mem, hbyte, hlittle]
  rfl

/-- R80: the cell after a completed redirected write. -/
theorem State.readCell_afterCellWrite (s : State) (t : BitVec 5) :
    (s.afterCellAccess true t).advancePc.readCell = s.readX t :=
  (State.readCell_congr (State.advancePc_mem _) (State.advancePc_inp _)
    (State.advancePc_cfg _)).trans (State.readCell_writeCell s _)

/-- Settles O26: by the frame of the MSR the MRS decides as it would have before it; X[r] takes the
cell, which holds X[t]. -/
theorem cellReadAfterWriteIsUnmasked : Obligations.CellReadAfterWriteIsUnmasked := by
  intro s s1 s2 t r hwrite hread h1 h2 hr
  obtain ⟨_, ⟨hinp, hcfg, _⟩, _⟩ := msrFrame s s1 t h1
  have hs1 : s1 = (s.afterCellAccess true t).advancePc := exec_next_of_memory (w := true) hwrite h1
  have hs2 : s2 = (s1.afterCellAccess false r).advancePc :=
    exec_next_of_memory (w := false) (by rw [hcfg, hinp]; exact hread) h2
  rw [hs2, State.readX_afterCellRead s1 hr, hs1, State.readCell_afterCellWrite]

end Sys2Proof.Machine
end

section
/-! Proofs, part 11: the decoder (R86 to R90, R97). A word is the six fixed fields, L and Rt of R88, and it
is its row's match with t in the low five bits. -/

namespace Sys2Proof

variable {w : BitVec 32} {i : Instr}

/-- R88: the eight fields lie side by side and make up the word. -/
theorem wordFields_append (w : BitVec 32) :
    wordFixed w ++ wordL w ++ wordOp0 w ++ wordOp1 w ++ wordCRn w ++ wordCRm w ++ wordOp2 w ++ wordRt w
      = w := by
  unfold wordFixed wordL wordOp0 wordOp1 wordCRn wordCRm wordOp2 wordRt
  iterate 7 rw [BitVec.extractLsb'_append_extractLsb'_eq_extractLsb' (by decide)]
  exact BitVec.extractLsb'_eq_self

/-- R86, R88: a word that names the register is the one built from its L and Rt. -/
theorem sysregMoveWord_of_namesPmsevfr (h : namesPmsevfr w = true) :
    sysregMoveWord (wordL w) (wordRt w) = w := by
  simp only [namesPmsevfr, Bool.and_eq_true, beq_iff_eq] at h
  obtain ⟨⟨⟨⟨⟨hfixed, hop0⟩, hop1⟩, hcrn⟩, hcrm⟩, hop2⟩ := h
  have hword := wordFields_append w
  rwa [hfixed, hop0, hop1, hcrn, hcrm, hop2] at hword

/-- R97: the decoder knows the word as that of an instruction, or refuses it by name. -/
theorem decode_cases (w : BitVec 32) :
    (∃ i, decode w = .ok i ∧ encode i = w) ∨ decode w = .error (.notInThisSpec w) := by
  by_cases hnames : namesPmsevfr w = true
  · have hword := sysregMoveWord_of_namesPmsevfr hnames
    rcases BitVec.eq_zero_or_eq_one (wordL w) with hl | hl <;> rw [hl] at hword
    · exact .inl ⟨.msr (wordRt w), by simp [decode, hnames, hl], hword⟩
    · exact .inl ⟨.mrs (wordRt w), by simp [decode, hnames, hl], hword⟩
  · exact .inr (if_neg hnames)

theorem decode_eq_ok_iff : decode w = .ok i ↔ encode i = w := by
  constructor
  · intro h
    rcases decode_cases w with ⟨j, hj, hword⟩ | herror
    · rw [h] at hj
      cases hj
      exact hword
    · rw [h] at herror
      cases herror
  · rintro rfl
    exact decode_encode i

theorem decode_of_not_encoded (h : ∀ i, encode i ≠ w) : decode w = .error (.notInThisSpec w) := by
  rcases decode_cases w with ⟨i, _, hword⟩ | herror
  · exact absurd hword (h i)
  · exact herror

/-- Settles O1: an encoded word decodes to its instruction, and the decoder accepts only words rebuilt
from their own L and Rt. -/
theorem decodeEncodeAgree : Obligations.DecodeEncodeAgree :=
  ⟨decode_encode, fun _ _ => decode_eq_ok_iff.1⟩

/-! The rows of R89 and R90. -/

theorem tableRow (i : Instr) : Laws.TableRow.Statement i := by
  cases i with
  | mrs t => exact Laws.TableRow.mrs t
  | msr t => exact Laws.TableRow.msr t

/-- The row's mask and the operand's five bits cover the word. -/
theorem masked_or_operand (w : BitVec 32) :
    w &&& 0xFFFFFFE0#32 ||| (w.setWidth 5).setWidth 32 = w := by
  have hmask : ∀ k < 32, (0xFFFFFFE0#32).getLsbD k = !decide (k < 5) := by decide
  refine BitVec.eq_of_getLsbD_eq fun k hk => ?_
  rw [BitVec.getLsbD_or, BitVec.getLsbD_and, hmask k hk]
  by_cases hlow : k < 5 <;> simp [hlow, hk]

/-- R89, R90: a word is that of the instruction with its low five bits as t when the row matches. -/
theorem encode_eq_of_rowMatch (ht : i.operand = w.setWidth 5)
    (hrow : w &&& 0xFFFFFFE0#32 = Laws.TableRow.rowMatch i) : encode i = w := by
  obtain ⟨hword, _⟩ := tableRow i
  rw [hword, ← hrow, ht, masked_or_operand]

/-- R97: a word that matches neither row is refused by name. -/
theorem decode_of_no_row (hmrs : w &&& 0xFFFFFFE0#32 ≠ 0xD53899A0#32)
    (hmsr : w &&& 0xFFFFFFE0#32 ≠ 0xD51899A0#32) : decode w = .error (.notInThisSpec w) := by
  refine decode_of_not_encoded fun i hword => ?_
  obtain ⟨_, hrow, _⟩ := tableRow i
  rw [hword] at hrow
  cases i with
  | mrs t => exact hmrs hrow
  | msr t => exact hmsr hrow

end Sys2Proof

namespace Sys2Proof.Machine

variable {s : State} {w : BitVec 32}

theorem fetch_of_refused_word (hword : tableFind s.program s.pc.toNat = some w)
    (hdecode : decode w = .error (.notInThisSpec w)) : fetch s = .error (.notInThisSpec w) := by
  simp [fetch, hword, hdecode]

theorem runPE_of_fetch_error {r : Refusal} (h : fetch s = .error r) : runPE s = .refused r := by
  simp [runPE, h]

/-- Settles O2: the two rows and no row; in the last case the fetch hands the decoder's refusal to the
step. -/
theorem decoderKnowsExactlyTwoPatterns : Obligations.DecoderKnowsExactlyTwoPatterns := by
  refine ⟨fun w => ?_, fun s w hs hword hmrs hmsr => ?_⟩
  · split_ifs with hmrs hmsr
    · exact decode_eq_ok_iff.2 (encode_eq_of_rowMatch rfl hmrs)
    · exact decode_eq_ok_iff.2 (encode_eq_of_rowMatch rfl hmsr)
    · exact decode_of_no_row hmrs hmsr
  · have hfetch := fetch_of_refused_word hword (decode_of_no_row hmrs hmsr)
    exact (step_of_schedule_nil hs).trans (runPE_of_fetch_error hfetch)

/-- Settles O3: four words are those of their instructions, two match neither row. -/
theorem wordsFromTheSpecDecode : Obligations.WordsFromTheSpecDecode :=
  ⟨decode_encode (.mrs 3#5), decode_encode (.msr 3#5), decode_encode (.mrs 31#5),
    decode_encode (.msr 31#5), decode_of_no_row (by decide) (by decide),
    decode_of_no_row (by decide) (by decide)⟩

end Sys2Proof.Machine
end

section
/-! Proofs, part 12: the assembler (R92 to R94, log 26). A text is the operation, two operands and a comma
between them, so it names at most one instruction. -/

namespace Sys2Proof

variable {i j : Instr} {text name name' : String}

/-- The two names of the register (R92, R94). -/
def registerNames : List String := ["PMSEVFR_EL1", genericName]

/-- The text is that of i under one of the register's names, up to the case of letters. -/
def IsTextOf (text : String) (i : Instr) : Prop :=
  ∃ name ∈ registerNames, upperCase text = upperCase (asmTextWith name i)

theorem mem_allInstrs (i : Instr) : i ∈ allInstrs := by
  cases i with
  | mrs t => revert t; decide
  | msr t => revert t; decide

/-! An upper-case text, cut at its comma. -/

theorem upperCase_asmTextWith_mrs (name : String) (t : BitVec 5) :
    upperCase (asmTextWith name (.mrs t)) =
      ('M' :: 'R' :: 'S' :: ' ' :: upperCase (asmReg t)) ++ ',' :: ' ' :: upperCase name := by
  simp [asmTextWith, upperCase]

theorem upperCase_asmTextWith_msr (name : String) (t : BitVec 5) :
    upperCase (asmTextWith name (.msr t)) =
      ('M' :: 'S' :: 'R' :: ' ' :: upperCase name) ++ ',' :: ' ' :: upperCase (asmReg t) := by
  simp [asmTextWith, upperCase]

theorem comma_notMem_asmReg : ∀ t : BitVec 5, ',' ∉ upperCase (asmReg t) := by decide

theorem comma_notMem_registerName : ∀ name ∈ registerNames, ',' ∉ upperCase name := by decide

theorem asmReg_inj : ∀ t u : BitVec 5, upperCase (asmReg t) = upperCase (asmReg u) → t = u := by decide

/-- Equal texts have equal operands: neither operand of the first holds a comma, so both texts are cut at
the same place. -/
theorem asmTextWith_inj (hname : ',' ∉ upperCase name)
    (h : upperCase (asmTextWith name i) = upperCase (asmTextWith name' j)) :
    i = j ∧ upperCase name = upperCase name' := by
  cases i with
  | mrs t =>
    cases j with
    | mrs u =>
      rw [upperCase_asmTextWith_mrs, upperCase_asmTextWith_mrs, List.append_cons_inj_of_notMem
        (by simp [comma_notMem_asmReg]) (by simp [hname])] at h
      obtain ⟨hreg, _, hrest⟩ := h
      simp only [List.cons.injEq, true_and] at hreg hrest
      exact ⟨congrArg Instr.mrs (asmReg_inj t u hreg), hrest⟩
    | msr u => simp [upperCase_asmTextWith_mrs, upperCase_asmTextWith_msr] at h
  | msr t =>
    cases j with
    | mrs u => simp [upperCase_asmTextWith_mrs, upperCase_asmTextWith_msr] at h
    | msr u =>
      rw [upperCase_asmTextWith_msr, upperCase_asmTextWith_msr, List.append_cons_inj_of_notMem
        (by simp [hname]) (by simp [comma_notMem_asmReg])] at h
      obtain ⟨hfirst, _, hreg⟩ := h
      simp only [List.cons.injEq, true_and] at hfirst hreg
      exact ⟨congrArg Instr.msr (asmReg_inj t u hreg), hfirst⟩

theorem IsTextOf.unique (hi : IsTextOf text i) (hj : IsTextOf text j) : i = j := by
  obtain ⟨name, hname, hi⟩ := hi
  obtain ⟨name', _, hj⟩ := hj
  exact (asmTextWith_inj (comma_notMem_registerName name hname) (hi.symm.trans hj)).1

theorem isTextOf_of_assemble (h : assemble text = some i) : IsTextOf text i := by
  simpa [IsTextOf, registerNames, asmText] using List.find?_some h

theorem not_isTextOf_of_assemble_none (h : assemble text = none) (i : Instr) : ¬ IsTextOf text i := by
  simpa [IsTextOf, registerNames, asmText] using List.find?_eq_none.1 h i (mem_allInstrs i)

/-- R92 to R94: the assembler answers the one instruction the text is a text of. -/
theorem assemble_eq_some_iff : assemble text = some i ↔ IsTextOf text i := by
  refine ⟨isTextOf_of_assemble, fun htext => ?_⟩
  cases hans : assemble text with
  | none => exact absurd htext (not_isTextOf_of_assemble_none hans i)
  | some j => rw [(isTextOf_of_assemble hans).unique htext]

/-- R92, R93: the text of a move of another register assembles to nothing. -/
theorem assemble_of_other_register (i : Instr) (hname : ',' ∉ upperCase name)
    (hother : ∀ name' ∈ registerNames, upperCase name ≠ upperCase name') :
    assemble (asmTextWith name i) = none := by
  refine Option.eq_none_iff_forall_ne_some.2 fun j hj => ?_
  obtain ⟨name', hname', htext⟩ := assemble_eq_some_iff.1 hj
  obtain ⟨_, hnames⟩ := asmTextWith_inj hname htext
  exact hother name' hname' hnames

/-- An instruction's text, in letters of either case, assembles to its word. -/
theorem assemble_map_encode (hname : name ∈ registerNames)
    (htext : upperCase text = upperCase (asmTextWith name i)) :
    (assemble text).map encode = some (encode i) := by
  rw [assemble_eq_some_iff.2 ⟨name, hname, htext⟩, Option.map_some]

/-- Settles O4: four texts of instructions, the third under the generic name, and one of another register. -/
theorem assemblerExamples : Obligations.AssemblerExamples := by
  refine ⟨?_, ?_, ?_, ?_, ?_⟩
  · exact assemble_map_encode (name := "PMSEVFR_EL1") (i := .mrs 3#5) (by decide) (by decide)
  · exact assemble_map_encode (name := "PMSEVFR_EL1") (i := .msr 3#5) (by decide) (by decide)
  · exact assemble_map_encode (name := genericName) (i := .mrs 3#5) (by decide) (by decide)
  · exact assemble_map_encode (name := "PMSEVFR_EL1") (i := .msr 31#5) (by decide) (by decide)
  · exact assemble_of_other_register (name := "PMSFCR_EL1") (.mrs 3#5) (by decide) (by decide)

end Sys2Proof
end

section
/-! Proofs, part 13: the decision (R100 to R116). The two pseudocode blocks are `accessCheck`; one equation
for each Exception level says what it decides there, and the statements about the decision are case splits
on presence and level. -/

namespace Sys2Proof.Machine

variable {c : Config} {i : Inputs} {w : Bool}

/-! The tests of the pseudocode, in the terms of R110. -/

/-- R17, R18: the middle bit of the pattern, NV1, does not matter. -/
theorem nvPatternIs1x1_eq (i : Inputs) : nvPatternIs1x1 i = (i.nv2 == 1#1 && i.nv == 1#1) := by
  have hbits : ∀ nv2 nv1 nv : BitVec 1,
      ((nv2 ++ nv1 ++ nv) &&& 0b101#3 == 0b101#3) = (nv2 == 1#1 && nv == 1#1) := by decide
  exact hbits i.nv2 i.nv1 i.nv

/-- R104: the two ownership tests, one for each value of NS, are `OwnerMismatch`. -/
theorem ownerTests_iff (c : Config) (i : Inputs) :
    ((c.haveEL3 && i.ns == 0#1 && i.nspb != 0b01#2) = true
      ∨ (c.haveEL3 && i.ns == 1#1 && i.nspb != 0b11#2) = true) ↔ ownerMismatch c i = true := by
  rw [← Bool.or_eq_true, ownerMismatch, Bool.and_or_distrib_left, Bool.and_assoc, Bool.and_assoc]

/-- R104: the two tests that stand first repeat the ownership tests under the priority of R112. -/
theorem priorityTests_iff (c : Config) (i : Inputs) :
    ((i.halted && c.haveEL3 && i.sdd == 1#1 && c.sddEl3Prio && i.ns == 0#1 && i.nspb != 0b01#2) = true
      ∨ (i.halted && c.haveEL3 && i.sdd == 1#1 && c.sddEl3Prio && i.ns == 1#1 && i.nspb != 0b11#2)
          = true)
      ↔ (debugSDD i && c.sddEl3Prio && ownerMismatch c i) = true := by
  rw [Bool.and_eq_true (debugSDD i && c.sddEl3Prio), ← ownerTests_iff, and_or_left]
  simp only [debugSDD, Bool.and_eq_true]
  constructor <;> rintro (h | h) <;> simp [h]

/-- R104: the fine-grained trap and the TPMS trap are two tests with one outcome. -/
theorem el2TrapTests_iff (c : Config) (i : Inputs) :
    ((i.el2Enabled && (!c.haveEL3 || i.fgtEn == 1#1) && i.fgtRead == 1#1) = true
      ∨ (i.el2Enabled && i.tpms == 1#1) = true) ↔ (fgTrap c i false || tpmsTrap i) = true :=
  Bool.or_eq_true_iff.symm

/-- R104: the last test, of the redirect. -/
theorem redirectTest_eq (i : Inputs) : (i.el2Enabled && nvPatternIs1x1 i) = nvRedirect i := by
  rw [nvPatternIs1x1_eq, nvRedirect, Bool.and_assoc]

/-- R110: the compact form is the pseudocode of MRS: where two tests in a row have one outcome, it makes one
test of them. At EL2 the priority tests decide nothing the ownership tests would not. -/
theorem mrsAccess_eq_accessCheck (c : Config) (i : Inputs) : mrsAccess c i = accessCheck c i false := by
  cases hpresent : c.featSPE with
  | false => simp [mrsAccess, ifPresent, accessCheck, hpresent]
  | true =>
    have hmrs : mrsAccess c i = mrsPseudocode c i := if_neg (by simp [hpresent])
    have hdebug : (i.halted && i.sdd == 1#1) = debugSDD i := rfl
    rw [hmrs, mrsPseudocode]
    cases hel : i.el with
    | el0 => simp [accessCheck, hel]
    | el1 =>
      simp only [← ite_or, priorityTests_iff, el2TrapTests_iff, ownerTests_iff, redirectTest_eq, hdebug]
      simp [accessCheck, hel, hpresent]
    | el2 =>
      simp only [← ite_or, priorityTests_iff, ownerTests_iff, hdebug]
      simp only [accessCheck, hel, hpresent]
      cases ownerMismatch c i <;> cases debugSDD i <;> simp
    | el3 => simp [accessCheck, hel, hpresent]

/-- R110, R116: for MSR the write trap bit stands in the read trap bit's place, on both sides. -/
theorem accessOf_eq_accessCheck (c : Config) (i : Inputs) (w : Bool) :
    accessOf c i w = accessCheck c i w := by
  cases w with
  | false => exact mrsAccess_eq_accessCheck c i
  | true =>
    calc msrAccess c i = mrsAccess c { i with fgtRead := i.fgtWrite } := msrAccess_eq_mrsAccess c i
      _ = accessCheck c { i with fgtRead := i.fgtWrite } false := mrsAccess_eq_accessCheck c _
      _ = accessCheck c i true := rfl

/-! `OwnerMismatch` by value (R110, R158(b)). -/

/-- R110: the check passes without EL3, and with it for the two matching pairs of NS and NSPB. -/
theorem ownerMismatch_eq_false_iff (c : Config) (i : Inputs) :
    ownerMismatch c i = false ↔
      (c.haveEL3 = true → i.ns = 0#1 ∧ i.nspb = 0b01#2 ∨ i.ns = 1#1 ∧ i.nspb = 0b11#2) := by
  rcases BitVec.eq_zero_or_eq_one i.ns with hns | hns <;> simp [ownerMismatch, hns]

/-- Settles O31: `accessOf` for the two directions, and `OwnerMismatch` at the two values of NS. -/
theorem accessCheckEqualsPseudocode : Obligations.AccessCheckEqualsPseudocode := by
  refine ⟨fun c i => ⟨mrsAccess_eq_accessCheck c i, accessOf_eq_accessCheck c i true⟩, fun c i => ?_⟩
  refine ⟨fun hel3 => ?_, fun hel3 hns => ?_, fun hel3 hns => ?_⟩
  all_goals simp [ownerMismatch_eq_false_iff, *]

/-! The decision of either instruction at each level (R105, R113 to R115). -/

theorem accessOf_absent (hpresent : c.featSPE = false) (i : Inputs) (w : Bool) :
    accessOf c i w = .undefined := by
  simp [accessOf_eq_accessCheck, accessCheck, hpresent]

theorem accessOf_el0 (c : Config) (hel : i.el = .el0) (w : Bool) : accessOf c i w = .undefined := by
  simp [accessOf_eq_accessCheck, accessCheck, hel]

theorem accessOf_el1 (hpresent : c.featSPE = true) (hel : i.el = .el1) (w : Bool) :
    accessOf c i w =
      if debugSDD i && c.sddEl3Prio && ownerMismatch c i then .undefined
      else if fgTrap c i w || tpmsTrap i then .trap .el2 0x18#6
      else if ownerMismatch c i then if debugSDD i then .undefined else .trap .el3 0x18#6
      else if nvRedirect i then .memory
      else .register := by
  simp [accessOf_eq_accessCheck, accessCheck, hpresent, hel]

theorem accessOf_el2 (hpresent : c.featSPE = true) (hel : i.el = .el2) (w : Bool) :
    accessOf c i w =
      if ownerMismatch c i then if debugSDD i then .undefined else .trap .el3 0x18#6
      else .register := by
  simp [accessOf_eq_accessCheck, accessCheck, hpresent, hel]

theorem accessOf_el3 (hpresent : c.featSPE = true) (hel : i.el = .el3) (w : Bool) :
    accessOf c i w = .register := by
  simp [accessOf_eq_accessCheck, accessCheck, hpresent, hel]

/-- R103: a decision is one of these five. -/
theorem accessOf_cases (c : Config) (i : Inputs) (w : Bool) :
    accessOf c i w = .undefined ∨ accessOf c i w = .trap .el2 0x18#6
      ∨ accessOf c i w = .trap .el3 0x18#6 ∨ accessOf c i w = .memory
      ∨ accessOf c i w = .register := by
  rw [accessOf_eq_accessCheck, accessCheck]
  split_ifs <;> simp

/-- R105, R108: when the decision is `Undefined`. -/
theorem accessOf_eq_undefined_iff (c : Config) (i : Inputs) (w : Bool) :
    accessOf c i w = .undefined ↔
      c.featSPE = false ∨ i.el = .el0
      ∨ ((i.el = .el1 ∨ i.el = .el2) ∧ debugSDD i = true ∧ ownerMismatch c i = true
          ∧ (i.el = .el2 ∨ c.sddEl3Prio = true ∨ fgTrap c i w = false ∧ tpmsTrap i = false)) := by
  cases hpresent : c.featSPE with
  | false => simp [accessOf_absent hpresent]
  | true =>
    cases hel : i.el with
    | el0 => simp [accessOf_el0 c hel]
    | el1 =>
      rw [accessOf_el1 hpresent hel]
      grind
    | el2 =>
      rw [accessOf_el2 hpresent hel]
      grind
    | el3 => simp [accessOf_el3 hpresent hel]

/-- R106, R109: when the access is made to memory. -/
theorem accessOf_eq_memory_iff (c : Config) (i : Inputs) (w : Bool) :
    accessOf c i w = .memory ↔
      c.featSPE = true ∧ i.el = .el1 ∧ i.el2Enabled = true ∧ i.nv2 = 1#1 ∧ i.nv = 1#1
        ∧ fgTrap c i w = false ∧ tpmsTrap i = false ∧ ownerMismatch c i = false := by
  cases hpresent : c.featSPE with
  | false => simp [accessOf_absent hpresent]
  | true =>
    cases hel : i.el with
    | el0 => simp [accessOf_el0 c hel]
    | el1 =>
      rw [accessOf_el1 hpresent hel]
      grind [nvRedirect]
    | el2 =>
      rw [accessOf_el2 hpresent hel]
      grind
    | el3 => simp [accessOf_el3 hpresent hel]

theorem accessOf_nv1 (c : Config) (i : Inputs) (w : Bool) (b : BitVec 1) :
    accessOf c { i with nv1 := b } w = accessOf c i w := by
  rw [accessOf_eq_accessCheck, accessOf_eq_accessCheck]
  rfl

/-- Settles O21: NV1 is not read by the compact form. -/
theorem mrsReadsMemoryExactlyWhen : Obligations.MrsReadsMemoryExactlyWhen :=
  fun c i => ⟨accessOf_eq_memory_iff c i false, accessOf_nv1 c i false⟩

/-- Settles O22, as O21 for the other direction. -/
theorem msrWritesMemoryExactlyWhen : Obligations.MsrWritesMemoryExactlyWhen :=
  fun c i => ⟨accessOf_eq_memory_iff c i true, accessOf_nv1 c i true⟩

/-- R111: rows are tried top to bottom. -/
theorem firstRow_cons (holds : Bool) (a : Access) (rows : List (Bool × Access)) :
    (((holds, a) :: rows).find? (fun r => r.1)).map (fun r => r.2) =
      if holds then some a else (rows.find? (fun r => r.1)).map (fun r => r.2) := by
  cases holds <;> rfl

/-- Settles O32: with presence and level known, the rows left over are the tests made at that level. -/
theorem decisionTableHolds : Obligations.DecisionTableHolds := by
  intro c i w
  cases hpresent : c.featSPE with
  | false => simp [accessOf_absent hpresent]
  | true =>
    cases hel : i.el with
    | el0 => simp [accessOf_el0 c hel]
    | el1 =>
      rw [accessOf_el1 hpresent hel]
      simp only [firstRow_cons]
      grind
    | el2 =>
      rw [accessOf_el2 hpresent hel]
      simp only [firstRow_cons]
      grind
    | el3 => simp [accessOf_el3 hpresent hel]

/-- R112: without the register or away from EL1 the priority parameter decides nothing. -/
theorem accessOf_sddEl3Prio_elsewhere (h : ¬(c.featSPE = true ∧ i.el = .el1)) (w b : Bool) :
    accessOf { c with sddEl3Prio := b } i w = accessOf c i w := by
  cases hpresent : c.featSPE with
  | false => rw [accessOf_absent rfl, accessOf_absent hpresent]
  | true =>
    have hel : i.el ≠ .el1 := fun hel => h ⟨hpresent, hel⟩
    simp [accessOf_eq_accessCheck, accessCheck, hel, hpresent, ownerMismatch]

/-- R112: at EL1 the parameter switches the first test on. -/
theorem accessOf_sddEl3Prio_el1 (hpresent : c.featSPE = true) (hel : i.el = .el1) (w b : Bool) :
    accessOf { c with sddEl3Prio := b } i w =
      if debugSDD i && b && ownerMismatch c i then .undefined
      else if fgTrap c i w || tpmsTrap i then .trap .el2 0x18#6
      else if ownerMismatch c i then if debugSDD i then .undefined else .trap .el3 0x18#6
      else if nvRedirect i then .memory
      else .register :=
  accessOf_el1 (c := { c with sddEl3Prio := b }) hpresent hel w

/-- Settles O40: at EL1 the parameter says whether the test for `Undefined` or that for the EL2 trap is met
first. -/
theorem sddPriorityDecidesOneCase : Obligations.SddPriorityDecidesOneCase := by
  intro c i w
  by_cases h : c.featSPE = true ∧ i.el = .el1
  · obtain ⟨hpresent, hel⟩ := h
    simp only [accessOf_sddEl3Prio_el1 hpresent hel]
    grind
  · simp only [accessOf_sddEl3Prio_elsewhere h]
    grind

/-- Settles O41: at EL2 the decision is made of `OwnerMismatch` and `DebugSDD`, which read the four inputs
only. -/
theorem el2IgnoresEl2Controls : Obligations.El2IgnoresEl2Controls := by
  intro c i j w hi hj hhalted hsdd hns hnspb
  have hmismatch : ownerMismatch c j = ownerMismatch c i := by rw [ownerMismatch, ownerMismatch, hns, hnspb]
  have hdebug : debugSDD j = debugSDD i := by rw [debugSDD, debugSDD, hhalted, hsdd]
  cases hpresent : c.featSPE with
  | false => simp [accessOf_absent hpresent]
  | true =>
    rw [accessOf_el2 hpresent hj, accessOf_el2 hpresent hi, hmismatch, hdebug]
    refine ⟨rfl, fun ec => ?_, ?_⟩ <;> split_ifs <;> simp

/-- Settles O42: the first part is how MSR is defined; equal bits make the replacement the identity. -/
theorem mrsAndMsrDecideAlike : Obligations.MrsAndMsrDecideAlike :=
  fun c i => ⟨msrAccess_eq_mrsAccess c i, fun hbits => (msrAccess_eq_mrsAccess c i).trans
    (congrArg (fun b => mrsAccess c { i with fgtRead := b }) hbits.symm)⟩

end Sys2Proof.Machine
end

section
/-! Proofs, part 14: what the instructions do with the decision (R103, R104, R107): an equation for each
answer, and the statements on completion, stops and `Undefined`. -/

namespace Sys2Proof.Machine

variable {s s' : State} {t : BitVec 5} {w : Bool}

theorem exists_sysregMove (i : Instr) : ∃ w t, i = sysregMove w t := by
  cases i with
  | mrs t => exact ⟨false, t, rfl⟩
  | msr t => exact ⟨true, t, rfl⟩

/-- R103: the state an access to the register leaves, before the pc moves on. -/
def State.afterRegisterAccess (s : State) (w : Bool) (t : BitVec 5) : State :=
  if w then s.directWrite (s.readX t) else s.afterDirectRead.writeX t s.directReadValue

theorem State.afterRegisterAccess_mrs (s : State) (t : BitVec 5) :
    s.afterRegisterAccess false t = s.afterDirectRead.writeX t s.directReadValue := rfl

theorem State.afterRegisterAccess_msr (s : State) (t : BitVec 5) :
    s.afterRegisterAccess true t = s.directWrite (s.readX t) := rfl

theorem State.afterRegisterAccess_pc (s : State) (w : Bool) (t : BitVec 5) :
    (s.afterRegisterAccess w t).pc = s.pc := by
  cases w <;> simp [State.afterRegisterAccess]

/-- R103: either instruction is its decision, carried out. -/
theorem exec_sysregMove (s : State) (w : Bool) (t : BitVec 5) :
    exec (sysregMove w t) s =
      match accessOf s.cfg s.inp w with
      | .undefined => .fault .undefined
      | .trap target ec => .fault (.systemAccessTrap target ec (!w) t)
      | .memory =>
        memoryAccess s (if w then s.inp.nvWriteFault else s.inp.nvReadFault)
          (complete (s.afterCellAccess w t))
      | .register => .next (s.afterRegisterAccess w t).advancePc := by
  cases w <;> rfl

theorem exec_of_undefined (h : accessOf s.cfg s.inp w = .undefined) (t : BitVec 5) :
    exec (sysregMove w t) s = .fault .undefined := by
  rw [exec_sysregMove, h]

theorem exec_of_trap {target : EL} {ec : BitVec 6} (h : accessOf s.cfg s.inp w = .trap target ec)
    (t : BitVec 5) :
    exec (sysregMove w t) s = .fault (.systemAccessTrap target ec (!w) t) := by
  rw [exec_sysregMove, h]

theorem exec_of_register (h : accessOf s.cfg s.inp w = .register) (t : BitVec 5) :
    exec (sysregMove w t) s = .next (s.afterRegisterAccess w t).advancePc := by
  rw [exec_sysregMove, h]

/-- R77: a memory access is refused, passes a fault through, or is made. -/
theorem memoryAccess_cases (s : State) (verdict : Option Nat) (done : Result) :
    memoryAccess s verdict done = .refused .nvBaseMisaligned
    ∨ memoryAccess s verdict done = .refused .overlapsProgram
    ∨ (∃ info, memoryAccess s verdict done = .fault (.memFault info))
    ∨ memoryAccess s verdict done = done := by
  unfold memoryAccess
  split
  · exact .inl rfl
  · split
    · exact .inr (.inl rfl)
    · cases verdict with
      | some info => exact .inr (.inr (.inl ⟨info, rfl⟩))
      | none => exact .inr (.inr (.inr rfl))

/-- R77, R103: how an instruction on the memory path ends. -/
theorem exec_memory_cases (h : accessOf s.cfg s.inp w = .memory) (t : BitVec 5) :
    exec (sysregMove w t) s = .refused .nvBaseMisaligned
    ∨ exec (sysregMove w t) s = .refused .overlapsProgram
    ∨ (∃ info, exec (sysregMove w t) s = .fault (.memFault info))
    ∨ exec (sysregMove w t) s = .next (s.afterCellAccess w t).advancePc := by
  rw [exec_of_memory h]
  exact memoryAccess_cases s _ _

/-- Settles O6: an instruction ends as its decision says, and on the memory path as the memory access
does. -/
theorem outcomesAreThoseListed : Obligations.OutcomesAreThoseListed := by
  intro i s
  obtain ⟨w, t, rfl⟩ := exists_sysregMove i
  rcases accessOf_cases s.cfg s.inp w with h | h | h | h | h
  · simp [exec_of_undefined h]
  · simp [exec_of_trap h]
  · simp [exec_of_trap h]
  · rcases exec_memory_cases h t with hend | hend | ⟨info, hend⟩ | hend <;> simp [hend]
  · simp [exec_of_register h]

/-! `Undefined` (R101, R105, R108, R115). -/

/-- R105: an instruction ends in `Undefined` only by its decision. -/
theorem exec_eq_undefined_iff (s : State) (w : Bool) (t : BitVec 5) :
    exec (sysregMove w t) s = .fault .undefined ↔ accessOf s.cfg s.inp w = .undefined := by
  refine ⟨fun hend => ?_, fun h => exec_of_undefined h t⟩
  rcases accessOf_cases s.cfg s.inp w with h | h | h | h | h
  · exact h
  · simp [exec_of_trap h] at hend
  · simp [exec_of_trap h] at hend
  · rcases exec_memory_cases h t with hmem | hmem | ⟨info, hmem⟩ | hmem <;> simp [hmem] at hend
  · simp [exec_of_register h] at hend

/-- R105, R108: when either instruction ends in `Undefined`. -/
theorem exec_undefined_exactly_when (s : State) (w : Bool) (t : BitVec 5) :
    (exec (sysregMove w t) s = .fault .undefined ↔
      s.cfg.featSPE = false ∨ s.inp.el = .el0
      ∨ ((s.inp.el = .el1 ∨ s.inp.el = .el2) ∧ s.inp.halted = true ∧ s.inp.sdd = 1#1
          ∧ ownerMismatch s.cfg s.inp = true
          ∧ (s.inp.el = .el2 ∨ s.cfg.sddEl3Prio = true
              ∨ fgTrap s.cfg s.inp w = false ∧ tpmsTrap s.inp = false)))
    ∧ (s.inp.el = .el3 → s.cfg.featSPE = true → exec (sysregMove w t) s ≠ .fault .undefined) := by
  refine ⟨?_, fun hel hpresent => ?_⟩
  · simp [exec_eq_undefined_iff, accessOf_eq_undefined_iff, debugSDD, and_assoc]
  · simp [exec_of_register (accessOf_el3 hpresent hel w)]

/-- Settles O35: the decision of MRS carried out. -/
theorem mrsUndefinedExactlyWhen : Obligations.MrsUndefinedExactlyWhen :=
  fun s t => exec_undefined_exactly_when s false t

/-- Settles O36: the decision of MSR carried out. -/
theorem msrUndefinedExactlyWhen : Obligations.MsrUndefinedExactlyWhen :=
  fun s t => exec_undefined_exactly_when s true t

/-- Settles O33: absence alone decides. -/
theorem absentRegisterIsUndefined : Obligations.AbsentRegisterIsUndefined :=
  fun _ t habsent => ⟨exec_of_undefined (w := false) (accessOf_absent habsent _ _) t,
    exec_of_undefined (w := true) (accessOf_absent habsent _ _) t⟩

/-- Settles O34: the level alone decides. -/
theorem el0IsUndefined : Obligations.El0IsUndefined :=
  fun _ t hel => ⟨exec_of_undefined (w := false) (accessOf_el0 _ hel _) t,
    exec_of_undefined (w := true) (accessOf_el0 _ hel _) t⟩

/-! Completion on the register path (R103, R113, R158(b)). -/

/-- R158(b): permitted controls pass the ownership check. -/
theorem controlsPermit.ownerMismatch {c : Config} {i : Inputs} (h : controlsPermit c i w) :
    ownerMismatch c i = false :=
  (ownerMismatch_eq_false_iff c i).2 h.1

/-- R158(b): permitted controls meet no EL2 trap at EL1. -/
theorem controlsPermit.no_el2_trap {c : Config} {i : Inputs} (h : controlsPermit c i w)
    (hel : i.el = .el1) : fgTrap c i w = false ∧ tpmsTrap i = false := by
  obtain ⟨_, hel2⟩ := h
  cases hen : i.el2Enabled with
  | false => simp [fgTrap, tpmsTrap, hen]
  | true =>
    obtain ⟨htpms, hfgt⟩ := hel2 hel hen
    refine ⟨?_, by simp [tpmsTrap, htpms]⟩
    by_cases hon : c.haveEL3 = false ∨ i.fgtEn = 1#1
    · simp [fgTrap, hfgt hon]
    · obtain ⟨hel3, hfgtEn⟩ := not_or.1 hon
      simp [fgTrap, hel3, hfgtEn]

/-- R158(b): where the levels above permit it, and no redirect stands before it, the access reaches the
register. -/
theorem accessOf_of_permitted {c : Config} {i : Inputs} (hpresent : c.featSPE = true)
    (hel0 : i.el ≠ .el0)
    (h : i.el = .el3 ∨ controlsPermit c i w ∧ ¬(i.el = .el1 ∧ nvRedirect i = true)) :
    accessOf c i w = .register := by
  rcases h with hel3 | ⟨hpermit, hredirect⟩
  · exact accessOf_el3 hpresent hel3 w
  · cases hel : i.el with
    | el0 => exact absurd hel hel0
    | el1 =>
      obtain ⟨hfgt, htpms⟩ := hpermit.no_el2_trap hel
      have hnv : nvRedirect i = false := by simpa [hel] using hredirect
      simp [accessOf_el1 hpresent hel, hpermit.ownerMismatch, hfgt, htpms, hnv]
    | el2 => simp [accessOf_el2 hpresent hel, hpermit.ownerMismatch]
    | el3 => exact accessOf_el3 hpresent hel w

theorem State.readX_afterRegisterRead (s : State) (ht : t ≠ 31#5) :
    (s.afterRegisterAccess false t).advancePc.readX t
      = regRead s.cfg s.reg (Config.freeBit s.draws) :=
  (State.readX_congr (State.advancePc_x _) t).trans (State.readX_writeX_same _ _ ht)

theorem State.reg_afterRegisterWrite (s : State) (t : BitVec 5) :
    (s.afterRegisterAccess true t).advancePc.reg = s.readX t &&& writeMask s.cfg := by
  simp [State.afterRegisterAccess_msr]

/-- Settles O16: the access reaches the register, and X[t] takes the direct read. -/
theorem mrsReadsTheRegister : Obligations.MrsReadsTheRegister := by
  intro s t hpresent hel0 h
  refine ⟨(s.afterRegisterAccess false t).advancePc,
    exec_of_register (w := false) (accessOf_of_permitted hpresent hel0 h) t,
    s.readX_afterRegisterRead, fun ht => ?_, ?_,
    State.pcAdvanced_advancePc (s.afterRegisterAccess_pc false t)⟩
  · simp [State.afterRegisterAccess_mrs, ht]
  · simp [State.afterRegisterAccess_mrs]

/-- Settles O17: the access reaches the register, which takes X[t] under the mask. -/
theorem msrWritesTheRegister : Obligations.MsrWritesTheRegister := by
  intro s t hpresent hel0 h
  have hreg := s.reg_afterRegisterWrite t
  refine ⟨(s.afterRegisterAccess true t).advancePc,
    exec_of_register (w := true) (accessOf_of_permitted hpresent hel0 h) t,
    hreg, fun ht => ?_, State.pcAdvanced_advancePc (s.afterRegisterAccess_pc true t)⟩
  rw [hreg, ht, State.readX_zero, BitVec.zero_and]

/-- Settles O18: presence and level decide alone. -/
theorem el3AlwaysReachesTheRegister : Obligations.El3AlwaysReachesTheRegister := by
  intro c i w hpresent hel
  have hpath := accessOf_el3 hpresent hel w
  refine ⟨hpath, fun s t hcfg hinp => ?_⟩
  subst hcfg hinp
  refine ⟨(s.afterRegisterAccess w t).advancePc, exec_of_register hpath t, ?_, ?_⟩
  · rintro rfl
    exact s.reg_afterRegisterWrite t
  · rintro rfl ht
    exact s.readX_afterRegisterRead ht

/-- Settles O27: the frame of the redirected MSR keeps register and parameters, and the MRS reads that
register, with the inputs it is given. -/
theorem redirectedWriteIsNotSeenByTheRegister : Obligations.RedirectedWriteIsNotSeenByTheRegister := by
  intro s s1 s2 t r j hwrite h1
  obtain ⟨_, ⟨_, hcfg, _⟩, _, hmemory⟩ := msrFrame s s1 t h1
  obtain ⟨hreg, _⟩ := hmemory hwrite
  refine ⟨hreg, fun hread h2 hr => ?_⟩
  have hvalue := execMrs_readX (s := { s1 with inp := j }) h2 (by rwa [hcfg]) hr
  rwa [hcfg, hreg] at hvalue

/-! Stops (R100). -/

theorem stopOf_next (s : State) : stopOf (.next s) = none := rfl

/-- R103: an instruction that completes does not stop. -/
theorem stopOf_complete (s : State) : stopOf (complete s) = none := rfl

/-- R77: a memory access stops by inputs and program alone, where what is done after it does. -/
theorem stopOf_memoryAccess_congr (hinp : s.inp = s'.inp) (hprogram : s.program = s'.program)
    (verdict : Option Nat) {done done' : Result} (hdone : stopOf done = stopOf done') :
    stopOf (memoryAccess s verdict done) = stopOf (memoryAccess s' verdict done') := by
  unfold memoryAccess State.cell
  rw [hinp, hprogram]
  split
  · rfl
  · split
    · rfl
    · cases verdict with
      | some info => rfl
      | none => exact hdone

/-- Settles O46: the two decisions are equal; a trap carries what the instruction says, and an access that is
made completes in both states. -/
theorem stopsRevealNoContents : Obligations.StopsRevealNoContents := by
  intro s1 s2 i hcfg hinp hprogram
  obtain ⟨w, t, rfl⟩ := exists_sysregMove i
  have hsame : accessOf s2.cfg s2.inp w = accessOf s1.cfg s1.inp w := by rw [hcfg, hinp]
  cases h : accessOf s1.cfg s1.inp w with
  | undefined => rw [exec_of_undefined h, exec_of_undefined (hsame.trans h)]
  | trap target ec => rw [exec_of_trap h, exec_of_trap (hsame.trans h)]
  | register =>
    rw [exec_of_register h, exec_of_register (hsame.trans h), stopOf_next, stopOf_next]
  | memory =>
    rw [exec_of_memory h, exec_of_memory (hsame.trans h), hinp]
    exact stopOf_memoryAccess_congr hinp hprogram _
      ((stopOf_complete _).trans (stopOf_complete _).symm)

end Sys2Proof.Machine
end

section
/-! Proofs, part 15: traps and Debug state (R133 to R136, R146, R148), and the packing of the syndrome
(R134). -/

namespace Sys2Proof.Machine

variable {c : Config} {i : Inputs} {w : Bool}

/-! The controls of EL2 and of EL3 by value (R110). -/

/-- R135: both traps to EL2 stand under EL2Enabled. -/
theorem el2Trap_iff (c : Config) (i : Inputs) (w : Bool) :
    fgTrap c i w = true ∨ tpmsTrap i = true ↔
      i.el2Enabled = true
      ∧ ((c.haveEL3 = false ∨ i.fgtEn = 1#1) ∧ (if w then i.fgtWrite else i.fgtRead) = 1#1
          ∨ i.tpms = 1#1) := by
  simp only [fgTrap, tpmsTrap, Bool.and_eq_true, Bool.or_eq_true, Bool.not_eq_true', beq_iff_eq,
    and_assoc]
  exact and_or_left.symm

/-- R136, R146: when the ownership check fails. -/
theorem ownerMismatch_eq_true_iff (c : Config) (i : Inputs) :
    ownerMismatch c i = true ↔
      c.haveEL3 = true ∧ (i.ns = 0#1 ∧ i.nspb ≠ 0b01#2 ∨ i.ns = 1#1 ∧ i.nspb ≠ 0b11#2) := by
  simp [ownerMismatch]

/-- R146: an NSPB of 00 or 10 matches neither value of NS. -/
theorem ownerMismatch_of_nspb (hel3 : c.haveEL3 = true) (hnspb : i.nspb = 0b00#2 ∨ i.nspb = 0b10#2) :
    ownerMismatch c i = true := by
  rcases BitVec.eq_zero_or_eq_one i.ns with hns | hns <;>
    rcases hnspb with hnspb | hnspb <;> simp [ownerMismatch, hel3, hns, hnspb]

/-! The decisions that trap. -/

/-- R135: when the decision is the trap to EL2. -/
theorem accessOf_eq_trap_el2_iff (c : Config) (i : Inputs) (w : Bool) :
    accessOf c i w = .trap .el2 0x18#6 ↔
      c.featSPE = true ∧ i.el = .el1
      ∧ ¬(debugSDD i = true ∧ ownerMismatch c i = true ∧ c.sddEl3Prio = true)
      ∧ (fgTrap c i w = true ∨ tpmsTrap i = true) := by
  cases hpresent : c.featSPE with
  | false => simp [accessOf_absent hpresent]
  | true =>
    cases hel : i.el with
    | el0 => simp [accessOf_el0 c hel]
    | el1 =>
      rw [accessOf_el1 hpresent hel]
      grind
    | el2 =>
      rw [accessOf_el2 hpresent hel]
      grind
    | el3 => simp [accessOf_el3 hpresent hel]

/-- R136: when the decision is the trap to EL3. -/
theorem accessOf_eq_trap_el3_iff (c : Config) (i : Inputs) (w : Bool) :
    accessOf c i w = .trap .el3 0x18#6 ↔
      c.featSPE = true ∧ (i.el = .el1 ∨ i.el = .el2)
      ∧ ¬(i.el = .el1 ∧ (fgTrap c i w = true ∨ tpmsTrap i = true))
      ∧ debugSDD i = false ∧ ownerMismatch c i = true := by
  cases hpresent : c.featSPE with
  | false => simp [accessOf_absent hpresent]
  | true =>
    cases hel : i.el with
    | el0 => simp [accessOf_el0 c hel]
    | el1 =>
      rw [accessOf_el1 hpresent hel]
      grind
    | el2 =>
      rw [accessOf_el2 hpresent hel]
      grind
    | el3 => simp [accessOf_el3 hpresent hel]

/-- R133: the class of a trap is 0x18, and its target EL2 or EL3. -/
theorem class_and_target_of_trap {target : EL} {ec : BitVec 6} (h : accessOf c i w = .trap target ec) :
    ec = 0x18#6 ∧ (target = .el2 ∨ target = .el3) := by
  rcases accessOf_cases c i w with hcase | hcase | hcase | hcase | hcase <;> rw [hcase] at h <;>
    cases h <;> simp

/-- R133, R134: an instruction ends in a trap only by its decision, and adds direction and t to it. -/
theorem exec_eq_trap_iff (s : State) (w : Bool) (t : BitVec 5) (target : EL) (ec : BitVec 6)
    (isRead : Bool) (r : BitVec 5) :
    exec (sysregMove w t) s = .fault (.systemAccessTrap target ec isRead r) ↔
      accessOf s.cfg s.inp w = .trap target ec ∧ isRead = !w ∧ r = t := by
  cases h : accessOf s.cfg s.inp w with
  | undefined => simp [exec_of_undefined h]
  | trap target' ec' =>
    simp only [exec_of_trap h, Host.Outcome.fault.injEq, Fault.systemAccessTrap.injEq,
      Access.trap.injEq, and_assoc, eq_comm (a := isRead), eq_comm (a := r)]
  | memory =>
    rcases exec_memory_cases h t with hmem | hmem | ⟨info, hmem⟩ | hmem <;> simp [hmem]
  | register => simp [exec_of_register h]

/-- Settles O37: the decision to trap to EL2 carried out, with the controls of EL2 by value. -/
theorem trapToEl2ExactlyWhen : Obligations.TrapToEl2ExactlyWhen := by
  intro s w t
  rw [exec_eq_trap_iff, accessOf_eq_trap_el2_iff, el2Trap_iff]
  tauto

/-- Settles O38: the decision to trap to EL3 carried out, with the ownership check by value. -/
theorem trapToEl3ExactlyWhen : Obligations.TrapToEl3ExactlyWhen := by
  intro s w t
  have hdebug : debugSDD s.inp = false ↔ ¬(s.inp.halted = true ∧ s.inp.sdd = 1#1) := by
    simp [debugSDD]
  rw [exec_eq_trap_iff, accessOf_eq_trap_el3_iff, ownerMismatch_eq_true_iff, hdebug]
  tauto

/-- Settles O39: direction and t are those of the instruction, and the decision to trap is met at the levels
of R135 and R136 alone. -/
theorem trapCarriesItsInstruction : Obligations.TrapCarriesItsInstruction := by
  intro s w t r target ec isRead htrap
  obtain ⟨h, hread, hr⟩ := (exec_eq_trap_iff s w t target ec isRead r).1 htrap
  obtain ⟨rfl, rfl | rfl⟩ := class_and_target_of_trap h
  · obtain ⟨_, hel, _⟩ := (accessOf_eq_trap_el2_iff s.cfg s.inp w).1 h
    exact ⟨rfl, hread, hr, .inl ⟨rfl, hel⟩⟩
  · obtain ⟨_, hel, _⟩ := (accessOf_eq_trap_el3_iff s.cfg s.inp w).1 h
    exact ⟨rfl, hread, hr, .inr ⟨rfl, hel⟩⟩

/-! EL3's ownership control (R144, R146). -/

/-- R146: at EL1 and EL2 an access that fails the ownership check is not made. -/
theorem accessOf_of_ownerMismatch (hel : i.el = .el1 ∨ i.el = .el2) (h : ownerMismatch c i = true)
    (w : Bool) : accessOf c i w ≠ .register ∧ accessOf c i w ≠ .memory := by
  have hel0 : i.el ≠ .el0 := by rcases hel with hel | hel <;> simp [hel]
  have hel3 : i.el ≠ .el3 := by rcases hel with hel | hel <;> simp [hel]
  rw [accessOf_eq_accessCheck, accessCheck, if_pos h, if_neg hel0, if_neg hel3]
  constructor <;> split_ifs <;> simp

/-- Settles O44: each pair of NS and NSPB named fails the ownership check, and without EL3 none does. -/
theorem ownershipBarsLowerLevels : Obligations.OwnershipBarsLowerLevels := by
  intro c i w hel
  refine ⟨fun hel3 hnspb => ?_, fun hel3 hns hnspb => ?_, fun hel3 hns hnspb => ?_,
    fun hpresent hel3 hel2 => ?_⟩
  · exact accessOf_of_ownerMismatch hel (ownerMismatch_of_nspb hel3 hnspb) w
  · exact accessOf_of_ownerMismatch hel ((ownerMismatch_eq_true_iff c i).2 ⟨hel3, .inl ⟨hns, hnspb⟩⟩) w
  · exact accessOf_of_ownerMismatch hel ((ownerMismatch_eq_true_iff c i).2 ⟨hel3, .inr ⟨hns, hnspb⟩⟩) w
  · have hmatch : ownerMismatch c i = false := by simp [ownerMismatch, hel3]
    simp [accessOf_el2 hpresent hel2, hmatch]

/-! Debug state (R112, R148). -/

/-- R148: Halted() and SDD matter by `DebugSDD` alone. -/
theorem accessOf_congr_debugSDD (c : Config) (i : Inputs) (w : Bool) {b b' : Bool} {d d' : BitVec 1}
    (h : (b && d == 1#1) = (b' && d' == 1#1)) :
    accessOf c { i with halted := b, sdd := d } w = accessOf c { i with halted := b', sdd := d' } w := by
  have hdebug :
      debugSDD { i with halted := b, sdd := d } = debugSDD { i with halted := b', sdd := d' } := h
  rw [accessOf_eq_accessCheck, accessOf_eq_accessCheck, accessCheck, hdebug]
  rfl

/-- R148: the decision at EL1 outside Debug state. -/
theorem accessOf_running_el1 (hpresent : c.featSPE = true) (hel : i.el = .el1) (w : Bool) :
    accessOf c { i with halted := false } w =
      if fgTrap c i w || tpmsTrap i then .trap .el2 0x18#6
      else if ownerMismatch c i then .trap .el3 0x18#6
      else if nvRedirect i then .memory
      else .register :=
  accessOf_el1 (i := { i with halted := false }) hpresent hel w

/-- R112, R148: the decision at EL1 in Debug state with SDD 1. -/
theorem accessOf_halted_el1 (hpresent : c.featSPE = true) (hel : i.el = .el1) (w : Bool) :
    accessOf c { i with halted := true, sdd := 1#1 } w =
      if c.sddEl3Prio && ownerMismatch c i then .undefined
      else if fgTrap c i w || tpmsTrap i then .trap .el2 0x18#6
      else if ownerMismatch c i then .undefined
      else if nvRedirect i then .memory
      else .register :=
  accessOf_el1 (i := { i with halted := true, sdd := 1#1 }) hpresent hel w

/-- R148: the decision at EL2 outside Debug state. -/
theorem accessOf_running_el2 (hpresent : c.featSPE = true) (hel : i.el = .el2) (w : Bool) :
    accessOf c { i with halted := false } w =
      if ownerMismatch c i then .trap .el3 0x18#6 else .register :=
  accessOf_el2 (i := { i with halted := false }) hpresent hel w

/-- R148: the decision at EL2 in Debug state with SDD 1. -/
theorem accessOf_halted_el2 (hpresent : c.featSPE = true) (hel : i.el = .el2) (w : Bool) :
    accessOf c { i with halted := true, sdd := 1#1 } w =
      if ownerMismatch c i then .undefined else .register :=
  accessOf_el2 (i := { i with halted := true, sdd := 1#1 }) hpresent hel w

/-- Settles O45: with SDD 0 `DebugSDD` is false, as it is outside Debug state; with SDD 1 the tests made at
each level differ from those outside Debug state in `DebugSDD` only. -/
theorem debugStateOnlyReplacesTraps : Obligations.DebugStateOnlyReplacesTraps := by
  intro c i w running halted
  have hsdd0 : accessOf c { i with halted := true, sdd := 0#1 } w = running :=
    accessOf_congr_debugSDD c i w rfl
  rw [hsdd0]
  cases hpresent : c.featSPE with
  | false =>
    have hrunning : running = .undefined := accessOf_absent hpresent _ w
    have hhalted : halted = .undefined := accessOf_absent hpresent _ w
    simp [hrunning, hhalted]
  | true =>
    cases hel : i.el with
    | el0 =>
      have hrunning : running = .undefined :=
        accessOf_el0 (i := { i with halted := false }) c hel w
      have hhalted : halted = .undefined :=
        accessOf_el0 (i := { i with halted := true, sdd := 1#1 }) c hel w
      simp [hrunning, hhalted]
    | el1 =>
      rw [show running = _ from accessOf_running_el1 hpresent hel w,
        show halted = _ from accessOf_halted_el1 hpresent hel w]
      grind
    | el2 =>
      rw [show running = _ from accessOf_running_el2 hpresent hel w,
        show halted = _ from accessOf_halted_el2 hpresent hel w]
      grind
    | el3 =>
      have hrunning : running = .register :=
        accessOf_el3 (i := { i with halted := false }) hpresent hel w
      have hhalted : halted = .register :=
        accessOf_el3 (i := { i with halted := true, sdd := 1#1 }) hpresent hel w
      simp [hrunning, hhalted]

/-! The syndrome (R134, log 33). -/

/-- Settles O47: the packed fields, at each of the 32 values of t. -/
theorem syndromePacking : Obligations.SyndromePacking := by
  unfold Obligations.SyndromePacking
  decide

end Sys2Proof.Machine
end

section
/-! Proofs, part 16: the sampling window (R162, log 16). -/

namespace Sys2Proof.Machine

variable {s s' : State} {t : BitVec 5}

/-- R162: an MSR that reached the register puts the value it wrote over into the window. -/
theorem execMsr_window (h : execMsr t s = .next s') (hpath : msrAccess s.cfg s.inp = .register) :
    s'.window = s.reg :: s.window := by
  rcases execMsr_next h with ⟨_, rfl⟩ | ⟨hmem, _⟩
  · rw [State.advancePc_window, State.directWrite_window]
  · simp [hpath] at hmem

theorem step_of_syncPoint {rest : List Move} (h : s.schedule = .syncPoint :: rest) :
    step s = .next s.popMove.syncPoint :=
  step_of_schedule_cons h

/-- Settles O52: an MSR that reached the register opens the window, and the SyncPoint move, made from the
state without it, closes the window. -/
theorem windowOpensAtMsrAndClosesAtSyncPoint : Obligations.WindowOpensAtMsrAndClosesAtSyncPoint := by
  refine ⟨fun s s' t hpath h => execMsr_window h hpath, fun s rest hs => ?_⟩
  rw [step_of_syncPoint hs, State.popMove_of_schedule_cons hs, State.syncPoint]

end Sys2Proof.Machine
end
